-- ==== Sys2Proof/Word.lean ====
section
/-! DEFINITION. The two words of the block: the 32-bit bus word and the 8-bit framebuffer byte (R12, R60, R65). -/

namespace Sys2Proof

/-- One word of the host bus port; bit 0 is its least significant bit (R12, R68). -/
abbrev Word := BitVec 32

/-- One byte of a framebuffer bank, the only unit of framebuffer access (R60). -/
abbrev Byte := BitVec 8

end Sys2Proof
end

