-- ==== Sys2Proof/Syntax.lean ====
section
/-! DEFINITION. The commands of the interface DRS-1: one constructor for each row of the opcode map (R84). -/

namespace Sys2Proof

/-- A command with its operands as R88 writes them: a coordinate is a signed integer, every other number is unsigned, and
`lanes` is LEDP's 1 or 2 (the word holds `lanes - 1`, R83). Which values a word can hold is `Instr.wellFormed`. -/
inductive Instr where
  /-- NOP (R101). -/
  | nop
  /-- SETGEOM0 width, height (R102). -/
  | setgeom0 (width height : Nat)
  /-- SETGEOM1 chain, scan, lanes (R103). -/
  | setgeom1 (chain scan lanes : Nat)
  /-- CONFIGURE (R104). -/
  | configure
  /-- SETPIXEL x, y, on (R122). -/
  | setpixel (x y : Int) (on : Bool)
  /-- FILL on (R124); `FILL 0` is also written CLEAR (R126). -/
  | fill (on : Bool)
  /-- SETBRIGHT value (R183). -/
  | setbright (value : Nat)
  /-- SWAP copy (R141). -/
  | swap (copy : Bool)
  /-- START freq, in Hz (R152). -/
  | start (freq : Nat)
  /-- STOP (R153). -/
  | stop
  /-- GETPIXEL x, y (R128). -/
  | getpixel (x y : Int)
  deriving DecidableEq, Repr

/-- The mnemonic of a command, as R84's opcode map spells it. -/
def Instr.mnemonic : Instr → String
  | .nop => "NOP"
  | .setgeom0 _ _ => "SETGEOM0"
  | .setgeom1 _ _ _ => "SETGEOM1"
  | .configure => "CONFIGURE"
  | .setpixel _ _ _ => "SETPIXEL"
  | .fill _ => "FILL"
  | .setbright _ => "SETBRIGHT"
  | .swap _ => "SWAP"
  | .start _ => "START"
  | .stop => "STOP"
  | .getpixel _ _ => "GETPIXEL"

end Sys2Proof
end

