-- ==== Sys2Proof/WellFormed.lean ====
section
/-! DEFINITION. Which operands a command word can hold: the operand ranges of the assembler syntax (R88). -/

namespace Sys2Proof

/-- A column that the 14-bit field X holds: -8192..8191 (R82, R88). -/
def columnEncodable (x : Int) : Bool := decide (-8192 ≤ x ∧ x ≤ 8191)

/-- A row that the 13-bit field Y holds: -4096..4095 (R82, R88). -/
def rowEncodable (y : Int) : Bool := decide (-4096 ≤ y ∧ y ≤ 4095)

/-- The operand ranges of R88. A command outside them has no word: "an operand outside its range is an assembly error". -/
def Instr.wellFormed : Instr → Bool
  | .nop => true
  | .setgeom0 width height => decide (width ≤ 8191) && decide (height ≤ 4095)
  | .setgeom1 chain scan lanes =>
      decide (chain ≤ 255) && decide (scan ≤ 255) && decide (lanes = 1 ∨ lanes = 2)
  | .configure => true
  | .setpixel x y _ => columnEncodable x && rowEncodable y
  | .fill _ => true
  | .setbright value => decide (value ≤ 255)
  | .swap _ => true
  | .start freq => decide (freq ≤ 1048575)
  | .stop => true
  | .getpixel x y => columnEncodable x && rowEncodable y

end Sys2Proof
end

