-- ==== Sys2Proof/Decode.lean ====
section
/-! DEFINITION. The decoder (R82, R84-R86), total on every word and every list of bytes and rejecting by name, and the
encoder written from the format layouts (R81). -/

namespace Sys2Proof

/-- Why a word is no command (R85), or a list of bytes no word. -/
inductive Illegal where
  /-- Opcode 0xB to 0xF: no row of the opcode map has it (R85). -/
  | reservedOpcode (op : BitVec 4)
  /-- A defined opcode, the one of the named command, with a 1 in a reserved bit (R85). -/
  | reservedBits (mnemonic : String)
  /-- Fewer than four bytes: every command is one 32-bit word (R80). -/
  | truncated (bytes : Nat)
  deriving DecidableEq, Repr

/-- The opcode field `op = cmd[31:28]` (R80). -/
def opcodeOf (w : Word) : BitVec 4 := w.extractLsb' 28 4

/-- The column operand: `sext(cmd[13:0])` (R82, R83). -/
def fieldX (w : Word) : Int := (w.extractLsb' 0 14).toInt

/-- The row operand: `sext(cmd[26:14])` (R82, R83). -/
def fieldY (w : Word) : Int := (w.extractLsb' 14 13).toInt

/-- One row of the opcode map (R84): a word is this command exactly when `cmd & mask = match`. -/
structure OpRow where
  mnemonic : String
  pattern  : Word
  mask     : Word
  fields   : Word → Instr

/-- The opcode map (R84) with the fields of R82 and the operand assembly of R83. -/
def opcodeMap : List OpRow :=
  [ ⟨"NOP", 0x00000000#32, 0xFFFFFFFF#32, fun _ => .nop⟩,
    ⟨"SETGEOM0", 0x10000000#32, 0xFE000000#32, fun w => .setgeom0 (w.extractLsb' 0 13).toNat (w.extractLsb' 13 12).toNat⟩,
    ⟨"SETGEOM1", 0x20000000#32, 0xFFFE0000#32,
      fun w => .setgeom1 (w.extractLsb' 0 8).toNat (w.extractLsb' 8 8).toNat ((w.extractLsb' 16 1).toNat + 1)⟩,
    ⟨"CONFIGURE", 0x30000000#32, 0xFFFFFFFF#32, fun _ => .configure⟩,
    ⟨"SETPIXEL", 0x40000000#32, 0xF0000000#32, fun w => .setpixel (fieldX w) (fieldY w) (w.getLsbD 27)⟩,
    ⟨"FILL", 0x50000000#32, 0xFFFFFFFE#32, fun w => .fill (w.getLsbD 0)⟩,
    ⟨"SETBRIGHT", 0x60000000#32, 0xFFFFFF00#32, fun w => .setbright (w.extractLsb' 0 8).toNat⟩,
    ⟨"SWAP", 0x70000000#32, 0xFFFFFFFE#32, fun w => .swap (w.getLsbD 0)⟩,
    ⟨"START", 0x80000000#32, 0xFFF00000#32, fun w => .start (w.extractLsb' 0 20).toNat⟩,
    ⟨"STOP", 0x90000000#32, 0xFFFFFFFF#32, fun _ => .stop⟩,
    ⟨"GETPIXEL", 0xA0000000#32, 0xF8000000#32, fun w => .getpixel (fieldX w) (fieldY w)⟩ ]

/-- The name of what is wrong with a word that no row matches (R85): a reserved opcode, or a reserved bit set. -/
def illegalReason (w : Word) : Illegal :=
  match opcodeMap.find? (fun r => opcodeOf r.pattern == opcodeOf w) with
  | some r => .reservedBits r.mnemonic
  | none => .reservedOpcode (opcodeOf w)

/-- The decoder of R86: the first row whose mask and match fit, with its fields, or ILLEGAL. -/
def decode (w : Word) : Except Illegal Instr :=
  match opcodeMap.find? (fun r => w &&& r.mask == r.pattern) with
  | some r => .ok (r.fields w)
  | none => .error (illegalReason w)

/-- Byte lane b of a bus word: bits `[8b+7 : 8b]` (R68). -/
def laneOfWord (w : Word) (b : Nat) : Byte := w.extractLsb' (8 * b) 8

/-- The bus word whose lanes 0 to 3 hold the four bytes, little-endian (R68). -/
def wordOfLanes (b0 b1 b2 b3 : Byte) : Word := b3 ++ b2 ++ b1 ++ b0

/-- The word's four bytes as a byte-addressed bus holds them, lane 0 first (R68). -/
def wordBytes (w : Word) : List Byte := [laneOfWord w 0, laneOfWord w 1, laneOfWord w 2, laneOfWord w 3]

/-- The decoder on bytes: one command from the first four bytes, and the bytes after it (R68, R80). -/
def decodeBytes : List Byte → Except Illegal (Instr × List Byte)
  | b0 :: b1 :: b2 :: b3 :: rest =>
      match decode (wordOfLanes b0 b1 b2 b3) with
      | .ok i => .ok (i, rest)
      | .error e => .error e
  | bytes => .error (.truncated bytes.length)

/-- The 32-bit word of an opcode-table word of `nbits` bits; every bit above them is 0 (R80: there is one length, 32). -/
def tableWord (nbits w : Nat) : Word := BitVec.ofNat 32 (w % 2 ^ nbits)

/-- The command that the decoder reads from an opcode-table word. -/
def decodeTableWord (nbits w : Nat) : Option Instr :=
  match decodeBytes (wordBytes (tableWord nbits w)) with
  | .ok (i, _) => some i
  | .error _ => none

/-- The word of a well-formed command, each one its format's layout string read from bit 31 down to bit 0 (R81, R88). -/
def encode : Instr → Word
  | .nop => 0x0#4 ++ 0#28
  | .setgeom0 width height => 0x1#4 ++ 0#3 ++ BitVec.ofNat 12 height ++ BitVec.ofNat 13 width
  | .setgeom1 chain scan lanes =>
      0x2#4 ++ 0#11 ++ BitVec.ofNat 1 (lanes - 1) ++ BitVec.ofNat 8 scan ++ BitVec.ofNat 8 chain
  | .configure => 0x3#4 ++ 0#28
  | .setpixel x y on => 0x4#4 ++ BitVec.ofBool on ++ BitVec.ofInt 13 y ++ BitVec.ofInt 14 x
  | .fill on => 0x5#4 ++ 0#27 ++ BitVec.ofBool on
  | .setbright value => 0x6#4 ++ 0#20 ++ BitVec.ofNat 8 value
  | .swap copy => 0x7#4 ++ 0#27 ++ BitVec.ofBool copy
  | .start freq => 0x8#4 ++ 0#8 ++ BitVec.ofNat 20 freq
  | .stop => 0x9#4 ++ 0#28
  | .getpixel x y => 0xA#4 ++ 0#1 ++ BitVec.ofInt 13 y ++ BitVec.ofInt 14 x

/-- The bytes of a well-formed command, lane 0 first (R68). -/
def encodeBytes (i : Instr) : List Byte := wordBytes (encode i)

end Sys2Proof
end

