-- ==== Sys2Proof/Config.lean ====
section
/-! DEFINITION. The elaboration parameters of the block (R8, R66, R201), what elaboration accepts (R9, R181), and the
values that no source fixes: the block's own parameters and the banks' contents at power-on. -/

namespace Sys2Proof

/-- A port-map variant (R201): its flags. The physical pins it binds are outside the model (R6 (d), log 12). -/
structure PortVariant where
  /-- `NUM_DATA_LINES`, physical data lanes wired, 1 or 2. -/
  numDataLines : Nat
  /-- `NUM_ADDR_LINES`, physical row-address lines wired, 0..7. -/
  numAddrLines : Nat
  /-- `LATCH_PULSES`, latch pulses per tick, 1 or 2 (R202). -/
  latchPulses : Nat
  /-- `ADDR_BEFORE_LATCH`, whether the row address is driven before the latch pulses (R203). -/
  addrBeforeLatch : Bool
  deriving DecidableEq, Repr

/-- `DUTY_OFF`, the maximum-off duty `2^DUTY_WIDTH - 1`; `DUTY_WIDTH` is 8 and `TICK_TIMER_WIDTH` is 24 (R8). -/
abbrev dutyOff : BitVec 8 := 255#8
/-- `MAX_TOTAL_WIDTH` (R8). -/
abbrev maxTotalWidth : Nat := 8191

/-- The parameters the block is elaborated with (R8), the platform's base address (R66) among them. The values are OPEN:
every state carries its own set, and a statement about every state is a statement about every set. -/
structure Params where
  /-- `CLK_HZ`. -/
  clkHz : Nat
  /-- `DEFAULT_TICK_HZ`. -/
  defaultTickHz : Nat
  /-- `FB_CAPACITY_BYTES`, the size of each of the two banks. -/
  fbCapacity : Nat
  /-- `PWM_PRESCALE`, block clocks per PWM counter step. -/
  pwmPrescale : Nat
  /-- `GAMMA_LUT`, the duty lookup ROM (R40). -/
  gammaLut : Vector (BitVec 8) 256
  /-- The supported port maps; no source lists them (R201). -/
  supported : List PortVariant
  /-- `PORT_VARIANT`, which of the supported port maps is bound at build time. -/
  portVariant : Nat
  /-- `DRS_BASE`, the platform's base address of the port (R66). -/
  drsBase : Nat
  deriving DecidableEq, Repr

/-- The bound variant's flags. -/
def Params.variant (p : Params) : PortVariant := p.supported.getD p.portVariant ⟨1, 0, 1, true⟩

/-- `GAMMA_LUT[v]`. -/
def Params.gamma (p : Params) (v : BitVec 8) : BitVec 8 := p.gammaLut[v.toNat]

/-- `MAX_SCAN_DEPTH` (R8). -/
def Params.maxScanDepth (p : Params) : Nat := 2 ^ p.variant.numAddrLines

/-- What R8, R9, R66 and R181 demand of the parameters; elaboration accepts exactly these sets. -/
structure Params.Valid (p : Params) : Prop where
  clkHz : 1 ≤ p.clkHz
  defaultTickHz : 1 ≤ p.defaultTickHz
  /-- R9: `floor(CLK_HZ / DEFAULT_TICK_HZ)` is in `[1, 2^TICK_TIMER_WIDTH - 1]`. -/
  defaultPeriod : 1 ≤ p.clkHz / p.defaultTickHz ∧ p.clkHz / p.defaultTickHz ≤ 2 ^ 24 - 1
  fbCapacity : 1 ≤ p.fbCapacity ∧ p.fbCapacity ≤ 2 ^ 22
  pwmPrescale : 1 ≤ p.pwmPrescale
  /-- R9: `PORT_VARIANT` names a supported variant. -/
  portSupported : p.portVariant < p.supported.length
  dataLines : p.variant.numDataLines = 1 ∨ p.variant.numDataLines = 2
  addrLines : p.variant.numAddrLines ≤ 7
  latchPulses : p.variant.latchPulses = 1 ∨ p.variant.latchPulses = 2
  /-- R181 (a): non-increasing. -/
  gammaMono : ∀ a b : BitVec 8, a < b → p.gamma b ≤ p.gamma a
  /-- R181 (b): `GAMMA_LUT[0] = DUTY_OFF`. -/
  gammaZero : p.gamma 0#8 = dutyOff
  /-- 92_eei_decisions.md: `DRS_BASE` is 4-byte aligned. -/
  drsBase : p.drsBase % 4 = 0

/-- The diagnostic with which elaboration fails (R9). -/
inductive ElabFailure where
  | clkHz | defaultTickHz | defaultPeriod | fbCapacity | pwmPrescale | unsupportedVariant
  | dataLines | addrLines | latchPulses | gammaLut | drsBase
  deriving DecidableEq, Repr

/-- Elaboration (R9): the first parameter found outside its stated range, or none when the block elaborates. -/
def Params.elabFailure (p : Params) : Option ElabFailure :=
  if ¬ 1 ≤ p.clkHz then some .clkHz
  else if ¬ 1 ≤ p.defaultTickHz then some .defaultTickHz
  else if ¬ (1 ≤ p.clkHz / p.defaultTickHz ∧ p.clkHz / p.defaultTickHz ≤ 2 ^ 24 - 1) then some .defaultPeriod
  else if ¬ (1 ≤ p.fbCapacity ∧ p.fbCapacity ≤ 2 ^ 22) then some .fbCapacity
  else if ¬ 1 ≤ p.pwmPrescale then some .pwmPrescale
  else if ¬ p.portVariant < p.supported.length then some .unsupportedVariant
  else if ¬ (p.variant.numDataLines = 1 ∨ p.variant.numDataLines = 2) then some .dataLines
  else if ¬ p.variant.numAddrLines ≤ 7 then some .addrLines
  else if ¬ (p.variant.latchPulses = 1 ∨ p.variant.latchPulses = 2) then some .latchPulses
  else if ¬ ((∀ a b : BitVec 8, a < b → p.gamma b ≤ p.gamma a) ∧ p.gamma 0#8 = dutyOff) then some .gammaLut
  else if ¬ p.drsBase % 4 = 0 then some .drsBase
  else none

/-- The example table `LUT_EX[v] = 255 - v` of 95_test_vectors.md. -/
def exampleLut : Vector (BitVec 8) 256 :=
  ⟨⟨(List.range 256).map fun v => BitVec.ofNat 8 (255 - v)⟩, by simp⟩

/-- The parameter set PS1 of 95_test_vectors.md: a test assumption, not a property of the block. -/
def exampleParams : Params where
  clkHz := 16000000
  defaultTickHz := 2000
  fbCapacity := 1024
  pwmPrescale := 1
  gammaLut := exampleLut
  supported := [⟨2, 4, 1, true⟩]
  portVariant := 0
  drsBase := 0

theorem exampleParams_gamma (v : BitVec 8) : (exampleParams.gamma v).toNat = 255 - v.toNat := by
  have h := v.isLt
  simp only [exampleParams, Params.gamma, exampleLut, Vector.getElem_mk, List.getElem_toArray, List.getElem_map,
    List.getElem_range, BitVec.toNat_ofNat]
  omega

theorem exampleParams_valid : exampleParams.Valid where
  clkHz := by decide
  defaultTickHz := by decide
  defaultPeriod := by decide
  fbCapacity := by decide
  pwmPrescale := by decide
  portSupported := by decide
  dataLines := by decide
  addrLines := by decide
  latchPulses := by decide
  gammaMono a b h := by
    have ha := exampleParams_gamma a
    have hb := exampleParams_gamma b
    rw [BitVec.lt_def] at h
    rw [BitVec.le_def]
    omega
  gammaZero := by
    have h := exampleParams_gamma 0#8
    apply BitVec.eq_of_toNat_eq
    simpa using h
  drsBase := by decide

/-- A parameter set that elaboration accepts. -/
structure Elaborated where
  params : Params := exampleParams
  valid : params.Valid := by exact exampleParams_valid
  deriving Inhabited

/-- The parameters of the block at hand. Nothing in the model fixes one of them (R8: OPEN; log 1). -/
opaque Config.elaborated : Elaborated

/-- What byte `a` of the framebuffer space holds after power-on or the n-th reset since: any value (R39, R47; log 2). -/
opaque Config.powerOnByte : Nat → Nat → Byte

end Sys2Proof
end

