-- ==== Sys2Proof/Machine/State.lean ====
section
/-! DEFINITION. The state of the block (R22), the inputs that other agents offer it (R18, R65), what it shows (R18, R206),
and reset (R47). Everything is plain data. -/

namespace Sys2Proof.Machine

/-- The staged geometry (R33). -/
structure Staged where
  /-- `G_W`. -/
  width : BitVec 13
  /-- `G_H`. -/
  height : BitVec 12
  /-- `G_CHAIN`. -/
  chain : BitVec 8
  /-- `G_S`. -/
  scan : BitVec 8
  /-- `G_L`: 0 is single-lane, 1 is dual-lane. -/
  lanesBit : BitVec 1
  deriving DecidableEq, Repr

/-- The active geometry (R34). -/
structure Geometry where
  /-- `W`. -/
  width : BitVec 13
  /-- `H`. -/
  height : BitVec 12
  /-- `CHAIN`. -/
  chain : BitVec 8
  /-- `S`. -/
  scan : BitVec 8
  /-- `L`: 1 is single-lane, 2 is dual-lane. -/
  lanes : BitVec 2
  deriving DecidableEq, Repr

/-- The numbers of a geometry, as the checks of R105 compute with them: unbounded integers. -/
structure Dims where
  width  : Nat
  height : Nat
  chain  : Nat
  scan   : Nat
  lanes  : Nat
  deriving DecidableEq, Repr

/-- The line level registers (R38). `data1` is there only when `NUM_DATA_LINES = 2`, and `addr[k]` only for
`k < NUM_ADDR_LINES`; the invariant keeps the bits of absent lines at 0. -/
structure Lines where
  data0 : Bool
  data1 : Bool
  clk   : Bool
  lat   : Bool
  addr  : BitVec 7
  deriving DecidableEq, Repr

/-- The panel line events (R206). -/
inductive LineEvent where
  /-- CONFIGURE success: every line to 0, and the lines leave high-impedance. -/
  | linesInit
  /-- Tick step 2, single-lane. -/
  | data (d0 : Bool)
  /-- Tick step 2, dual-lane: both data lines together. -/
  | data2 (d0 d1 : Bool)
  /-- Tick step 2: the shift clock. -/
  | clk (v : Bool)
  /-- Tick step 4: the latch. -/
  | lat (v : Bool)
  /-- Tick step 3: the `n` low address lines together. -/
  | addr (a : BitVec 7) (n : Nat)
  /-- Tick steps 1 and 5: the duty register. -/
  | duty (v : BitVec 8)
  deriving DecidableEq, Repr

/-- One access of a bus master to the block's port (R65): the byte offset in its 8-byte space, the width in bytes, and for a
write the data word (a narrower or wider access is ignored, so its data is not read, R67). -/
inductive BusAccess where
  | write (offset : BitVec 3) (bytes : Nat) (data : Word)
  | read (offset : BitVec 3) (bytes : Nat)
  deriving DecidableEq, Repr

/-- What happens next at the block, when something outside decides it (R18, R71, R72): the order of the list `agenda` is the
one total order of atomic steps, so states with different lists are the different interleavings (log 3). -/
inductive Input where
  /-- A bus master's access. -/
  | bus (a : BusAccess)
  /-- The tick timer's step `Expire` (R157). -/
  | expire
  /-- The scan engine serves a pending tick (R159). -/
  | tick
  /-- One block clock passes for the tick timer and the PWM counter (R36, R157). -/
  | clock
  /-- The block's reset input, between two steps (R260, R261). -/
  | reset
  deriving DecidableEq, Repr

/-- The framebuffer memory: the bytes written since reset, as pairs of an address of R60 and a byte. -/
abbrev Memory := List Host.Cell

/-- The complete state. The first part is R22's list. The second part is the model's own: the parameters, the power-on number,
the PWM prescaler's phase that R36 implies, the observations of R18, and what arrives from outside. -/
structure State where
  /-- `INIT` (R23). -/
  init : Bool
  /-- `TIE` (R24). -/
  tie : Bool
  /-- `PEND` (R25). -/
  pend : Bool
  /-- `ROW` (R26). -/
  row : BitVec 7
  /-- `FRONT` (R27): true when bank 1 is the front bank. -/
  front : Bool
  /-- `BRIGHT` (R28). -/
  bright : BitVec 8
  /-- `DUTY` (R29). -/
  duty : BitVec 8
  /-- `SNAP` (R30). -/
  snap : BitVec 8
  /-- `ERR` (R31). -/
  err : BitVec 4
  /-- `PIX` (R32). -/
  pix : Bool
  /-- `G_W`, `G_H`, `G_CHAIN`, `G_S`, `G_L` (R33). -/
  staged : Staged
  /-- `W`, `H`, `CHAIN`, `S`, `L` (R34). -/
  active : Geometry
  /-- `TICK_PERIOD` (R35). -/
  tickPeriod : BitVec 24
  /-- `TIMER_CNT` (R35). -/
  timerCnt : BitVec 24
  /-- `PWM_CNT` (R36). -/
  pwmCnt : BitVec 8
  /-- `LINE_EN` (R37). -/
  lineEn : Bool
  /-- `DATA0`, `DATA1`, `CLK`, `LAT`, `ADDR` (R38). -/
  lines : Lines
  /-- `FB[0]` and `FB[1]` (R39), at the addresses of R60. -/
  mem : Memory
  /-- The parameters of the elaborated block, `GAMMA_LUT` (R40) among them. No step changes them. -/
  cfg : Params
  /-- Model's own: how many resets since power-on; it picks the unspecified bytes of the banks (log 2). -/
  epoch : Nat
  /-- Model's own: block clocks since the last PWM counter step, below `PWM_PRESCALE` (R36, log 6). -/
  pwmPhase : Nat
  /-- The output trace (R205). -/
  trace : List LineEvent
  /-- The values written to `DUTY` since reset, oldest first (R18). -/
  dutyWrites : List (BitVec 8)
  /-- The values that bus reads returned, oldest first (R18). -/
  busReads : List Word
  /-- Model's own: what comes next from outside, first to come first (log 3). -/
  agenda : List Input
  deriving DecidableEq, Repr

/-- Why a step stops. The spec gives the block no fault (R223, R229): this one marks an access that R60 says no command computes. -/
inductive Fault where
  /-- Raised by `memRead` and `memWrite`, for a meaning or a tick that computes an address outside the framebuffer space (R60).
  No state that meets the invariant raises it. Safe: the model stops. -/
  | outsideFramebuffer (addr : Nat)
  deriving DecidableEq, Repr

/-- Why a command has no meaning. No arm of `exec` uses it. -/
inductive Refusal where
  /-- Raised by an arm of `exec` whose command has no meaning yet. Safe: the model stops. -/
  | notModelled (mnemonic : String)
  deriving DecidableEq, Repr

/-- The reset values of R47, for a block with the parameters `p`, at its `epoch`-th reset. -/
def State.resetWith (p : Params) (epoch : Nat) : State where
  init := false
  tie := false
  pend := false
  row := 0
  front := false
  bright := 0
  duty := dutyOff
  snap := dutyOff
  err := 0
  pix := false
  staged := ⟨0, 0, 0, 0, 0⟩
  active := ⟨0, 0, 0, 0, 0⟩
  tickPeriod := 0
  timerCnt := 0
  pwmCnt := 0
  lineEn := false
  lines := ⟨false, false, false, false, 0⟩
  mem := []
  cfg := p
  epoch := epoch
  pwmPhase := 0
  trace := []
  dutyWrites := []
  busReads := []
  agenda := []

/-- The block right after power-on (R47, R260): nothing waits on the bus. -/
def State.reset : State := State.resetWith Config.elaborated.params 0

end Sys2Proof.Machine
end

