-- ==== Sys2Proof/Machine/Flags.lean ====
section
/-! DEFINITION. The result codes (R220) and the STATUS word (R41): the block's only flags (R45). -/

namespace Sys2Proof.Machine

/-- The command result codes (R220). -/
inductive ErrCode where
  | ok | illegal | notInit | badFreq | geomWidth | geomScan | geomAddr | geomLanes | geomHeight | alloc
  deriving DecidableEq, Repr

/-- The number of a code in `ERR`; 10 to 15 are never produced (R220). -/
def errNumber : ErrCode → BitVec 4
  | .ok => 0
  | .illegal => 1
  | .notInit => 2
  | .badFreq => 3
  | .geomWidth => 4
  | .geomScan => 5
  | .geomAddr => 6
  | .geomLanes => 7
  | .geomHeight => 8
  | .alloc => 9

/-- `STATUS = {BRIGHT, 0b0, ROW, 0b0000, ERR, 0b000, PIX, FRONT, PEND, TIE, INIT}` (R41). -/
def statusWord (s : State) : Word :=
  s.bright ++ 0#1 ++ s.row ++ 0#4 ++ s.err ++ 0#3 ++ BitVec.ofBool s.pix ++ BitVec.ofBool s.front ++
    BitVec.ofBool s.pend ++ BitVec.ofBool s.tie ++ BitVec.ofBool s.init

/-- The scan engine's state in LEDP's terms (R43). -/
inductive ScanState where
  | idle | scanning
  deriving DecidableEq, Repr

/-- `Scanning` when `INIT = 1` and `TIE = 1`, `Idle` otherwise (R43, R150). -/
def scanState (s : State) : ScanState := if s.init && s.tie then .scanning else .idle

end Sys2Proof.Machine
end

