-- ==== Sys2Proof/Machine/Operands.lean ====
section
/-! DEFINITION. What commands and ticks compute from operands and geometry: derived sizes (R10), the pixel map (R60-R62),
the range test (R121), the geometry checks (R105) and the tick period (R151). -/

namespace Sys2Proof.Machine

/-- The staged numbers, with `lanes = G_L + 1` (R105). -/
def stagedDims (g : Staged) : Dims :=
  ⟨g.width.toNat, g.height.toNat, g.chain.toNat, g.scan.toNat, g.lanesBit.toNat + 1⟩

/-- The active numbers (R34). -/
def activeDims (g : Geometry) : Dims :=
  ⟨g.width.toNat, g.height.toNat, g.chain.toNat, g.scan.toNat, g.lanes.toNat⟩

/-- `TW = W × CHAIN` (R10). -/
def totalWidth (d : Dims) : Nat := d.width * d.chain

/-- `BPR = TW / 8` (R10). -/
def bytesPerRow (d : Dims) : Nat := totalWidth d / 8

/-- `ABITS = log2(S)` (R10). -/
def addressBits (d : Dims) : Nat := Nat.log2 d.scan

/-- `BUFSZ = BPR × H` (R10). -/
def bufferSize (d : Dims) : Nat := bytesPerRow d * d.height

/-- `CheckGeom()`: the code of the first test that fails, `ok` when all pass (R105). -/
def checkGeom (p : Params) (d : Dims) : ErrCode :=
  if d.width = 0 ∨ d.chain = 0 ∨ totalWidth d % 8 ≠ 0 ∨ totalWidth d > maxTotalWidth then .geomWidth
  else if d.scan = 0 ∨ d.scan &&& (d.scan - 1) ≠ 0 then .geomScan
  else if addressBits d > p.variant.numAddrLines then .geomAddr
  else if d.lanes > p.variant.numDataLines then .geomLanes
  else if d.height ≠ d.lanes * d.scan then .geomHeight
  else if bufferSize d > p.fbCapacity then .alloc
  else .ok

/-- `InRange(x, y)`: a signed comparison with the panel's sizes (R121). -/
def inRange (d : Dims) (x y : Int) : Bool := decide (0 ≤ x ∧ x < totalWidth d ∧ 0 ≤ y ∧ y < d.height)

/-- `PixOff(x, y) = y × BPR + (x >> 3)` (R62). -/
def pixOff (d : Dims) (x y : Nat) : Nat := y * bytesPerRow d + (x >>> 3)

/-- `PixMask(x) = 0x80 >> (x & 7)` (R62, R63). -/
def pixMask (x : Nat) : Byte := 0x80#8 >>> (x &&& 7)

/-- The address of byte 0 of a bank: `k × FB_CAPACITY_BYTES` (R60). Bank 1 is `true`. -/
def bankBase (p : Params) (bank : Bool) : Nat := bank.toNat * p.fbCapacity

/-- `PixAddr(k, x, y)` (R62), for a coordinate in range. -/
def pixAddr (p : Params) (d : Dims) (bank : Bool) (x y : Int) : Nat :=
  bankBase p bank + pixOff d x.toNat y.toNat

/-- `Period(f) = floor(CLK_HZ / f)` (R151). -/
def period (p : Params) (f : Nat) : Nat := p.clkHz / f

/-- Whether f is a valid tick frequency: f ≥ 1 and `1 ≤ Period(f) ≤ 2^TICK_TIMER_WIDTH - 1` (R151). -/
def freqValid (p : Params) (f : Nat) : Bool := decide (1 ≤ f ∧ 1 ≤ period p f ∧ period p f ≤ 2 ^ 24 - 1)

/-- The bank that the drawing commands write, `1 - FRONT` (R61). -/
def backBank (s : State) : Bool := !s.front

end Sys2Proof.Machine
end

