-- ==== Sys2Proof/Machine/Ops.lean ====
section
/-! DEFINITION. The shared operations: framebuffer memory (R13, R60), `emit` (R206), raising a command error (R13), a
command's success (R31), and tick entry and return (R227, R228). -/

namespace Sys2Proof.Machine

/-- The byte that the memory lists at an address; none where nothing has been written since reset. -/
def Memory.cell? : Memory → Nat → Option Byte
  | [], _ => none
  | (k, v) :: rest, a => if a < k then none else if a = k then some v else Memory.cell? rest a

/-- Store a byte, keeping the addresses strictly rising. -/
def Memory.put : Memory → Nat → Byte → Memory
  | [], a, v => [(a, v)]
  | (k, u) :: rest, a, v =>
      if a < k then (a, v) :: (k, u) :: rest
      else if a = k then (a, v) :: rest
      else (k, u) :: Memory.put rest a v

/-- The canonical form: addresses strictly rising. An address that is not listed has no byte of its own (its content is the
free value of power-on), so no entry can repeat what an unlisted address holds (log 2). -/
abbrev Memory.wf (m : Memory) : Prop := (m.map Prod.fst).Pairwise (· < ·)

/-- The size of the framebuffer address space (R60). -/
def spaceSize (p : Params) : Nat := 2 * p.fbCapacity

/-- What byte `a` of the framebuffer space holds: the byte written there, or else the unspecified power-on byte (R39). -/
def byteAt (s : State) (a : Nat) : Byte := (Memory.cell? s.mem a).getD (Config.powerOnByte s.epoch a)

/-- `MemRead(a, 1)` (R60). An address outside the space does not exist. -/
def memRead (s : State) (a : Nat) : Except Fault Byte :=
  if a < spaceSize s.cfg then .ok (byteAt s a) else .error (.outsideFramebuffer a)

/-- `MemWrite(a, 1, v)` (R60). An address outside the space does not exist. -/
def memWrite (s : State) (a : Nat) (v : Byte) : Except Fault State :=
  if a < spaceSize s.cfg then .ok { s with mem := Memory.put s.mem a v } else .error (.outsideFramebuffer a)

/-- `for o in 0..n-1: MemWrite(base + o, 1, v)` (R106, R124). -/
def fillBytes (base : Nat) (v : Byte) : Nat → State → Except Fault State
  | 0, s => .ok s
  | n + 1, s =>
      match fillBytes base v n s with
      | .error f => .error f
      | .ok t => memWrite t (base + n) v

/-- `for o in 0..n-1: MemWrite(dst + o, 1, MemRead(src + o, 1))` (R141). -/
def copyBytes (src dst : Nat) : Nat → State → Except Fault State
  | 0, s => .ok s
  | n + 1, s =>
      match copyBytes src dst n s with
      | .error f => .error f
      | .ok t =>
          match memRead t (src + n) with
          | .error f => .error f
          | .ok v => memWrite t (dst + n) v

/-- A mask of the n low address lines. -/
def lowLines (n : Nat) : BitVec 7 := BitVec.ofNat 7 (2 ^ n - 1)

/-- The levels a panel line event sets (R206); a line that the event does not name keeps its level. -/
def lineLevels (e : LineEvent) (l : Lines) : Lines :=
  match e with
  | .linesInit => ⟨false, false, false, false, 0⟩
  | .data d0 => { l with data0 := d0 }
  | .data2 d0 d1 => { l with data0 := d0, data1 := d1 }
  | .clk v => { l with clk := v }
  | .lat v => { l with lat := v }
  | .addr a n => { l with addr := (l.addr &&& ~~~ lowLines n) ||| (a &&& lowLines n) }
  | .duty _ => l

/-- `emit(event)` (R13): the event goes at the end of the trace and has its effect of R206. `Duty(v)` is the write of `DUTY`,
and `LinesInit` takes the lines out of high-impedance. -/
def emit (e : LineEvent) (s : State) : State :=
  let t := { s with lines := lineLevels e s.lines, trace := s.trace ++ [e] }
  match e with
  | .linesInit => { t with lineEn := true }
  | .duty v => { t with duty := v, dutyWrites := s.dutyWrites ++ [v] }
  | .data _ | .data2 _ _ | .clk _ | .lat _ | .addr _ _ => t

/-- The events in order. -/
def emitAll : List LineEvent → State → State
  | [], s => s
  | e :: es, s => emitAll es (emit e s)

/-- `raise CmdError(code)` (R13, R220): `ERR` gets the code and "every other piece of state" stays "exactly as it was". -/
def raiseCmdError (code : ErrCode) (s : State) : State := { s with err := errNumber code }

/-- A command's last write on success, `ERR <- 0` (R31). -/
def succeed (s : State) : State := { s with err := errNumber .ok }

/-- Tick entry after the guard (R161, R227): `SNAP <- DUTY`, then the duty is forced to `DUTY_OFF`. -/
def tickEnter (s : State) : State := emit (.duty dutyOff) { s with snap := s.duty }

/-- Tick return (R165, R228): `DUTY <- SNAP`. -/
def tickReturn (s : State) : State := emit (.duty s.snap) s

/-- A meaning's answer: the state it reaches, or the fault of an access it made. -/
def answer : Except Fault State → Host.Outcome State Fault Refusal
  | .ok s => .next s
  | .error f => .fault f

end Sys2Proof.Machine
end

