-- ==== Sys2Proof/Machine/Brightness.lean ====
section
/-! DEFINITION. Brightness control: SETBRIGHT (R183), the PWM counter (R36, R185) and the lit fraction (R187). -/

namespace Sys2Proof.Machine

/-- SETBRIGHT (R183): legal in every state. The write of `DUTY` is observed (R18) and emits no event (R205). -/
def execSetbright (value : Nat) (s : State) : Host.Outcome State Fault Refusal :=
  let v := BitVec.ofNat 8 value
  .next (succeed { s with
    bright := v, duty := s.cfg.gamma v, dutyWrites := s.dutyWrites ++ [s.cfg.gamma v] })

/-- One block clock of the PWM: every `PWM_PRESCALE` clocks `PWM_CNT` advances by 1 modulo 2^8, in every state (R36). -/
def pwmClock (s : State) : State :=
  if s.pwmPhase + 1 ≥ s.cfg.pwmPrescale then { s with pwmPhase := 0, pwmCnt := s.pwmCnt + 1 }
  else { s with pwmPhase := s.pwmPhase + 1 }

/-- The PWM output is off while `PWM_CNT ≤ DUTY` (R185). -/
def pwmOff (cnt duty : BitVec 8) : Bool := decide (cnt ≤ duty)

/-- The steps of one PWM period, out of 2^8, for which output enable is active: `2^DUTY_WIDTH - 1 - DUTY` (R185, R187). -/
def litSteps (duty : BitVec 8) : Nat := 2 ^ 8 - 1 - duty.toNat

end Sys2Proof.Machine
end

