-- ==== Sys2Proof/Machine/Configuration.lean ====
section
/-! DEFINITION. The configuration commands NOP, SETGEOM0, SETGEOM1 and CONFIGURE (R100-R108). -/

namespace Sys2Proof.Machine

/-- NOP (R101): `ERR <- 0`. -/
def execNop (s : State) : Host.Outcome State Fault Refusal := .next (succeed s)

/-- SETGEOM0 (R102): stages the width and the height, unchecked. -/
def execSetgeom0 (width height : Nat) (s : State) : Host.Outcome State Fault Refusal :=
  .next (succeed { s with
    staged := { s.staged with width := BitVec.ofNat 13 width, height := BitVec.ofNat 12 height } })

/-- SETGEOM1 (R103): stages the chain length, the scan depth and the lane count, unchecked; `G_L` holds `lanes - 1` (R83). -/
def execSetgeom1 (chain scan lanes : Nat) (s : State) : Host.Outcome State Fault Refusal :=
  .next (succeed { s with
    staged := { s.staged with
      chain := BitVec.ofNat 8 chain, scan := BitVec.ofNat 8 scan, lanesBit := BitVec.ofNat 1 (lanes - 1) } })

/-- The active geometry that `ConfigApply` takes from the staged one: `L <- G_L + 1` (R106). -/
def activate (g : Staged) : Geometry :=
  ⟨g.width, g.height, g.chain, g.scan, BitVec.ofNat 2 (g.lanesBit.toNat + 1)⟩

/-- The tick period that CONFIGURE programs: `floor(CLK_HZ / DEFAULT_TICK_HZ)` (R106). -/
def defaultPeriod (p : Params) : BitVec 24 := BitVec.ofNat 24 (period p p.defaultTickHz)

/-- The two loops of `ConfigApply` (R106): bytes `[0, BUFSZ)` of bank 0 and then of bank 1 become 0x00. -/
def zeroBanks (s : State) : Except Fault State :=
  match fillBytes (bankBase s.cfg false) 0#8 (bufferSize (activeDims s.active)) s with
  | .error f => .error f
  | .ok t => fillBytes (bankBase s.cfg true) 0#8 (bufferSize (activeDims s.active)) t

/-- `ConfigApply()` (R106). -/
def configApply (s : State) : Except Fault State :=
  match zeroBanks { s with active := activate s.staged } with
  | .error f => .error f
  | .ok t =>
      let u := emit .linesInit { t with front := false, row := 0, lineEn := true }
      .ok (succeed { u with
        init := true, tickPeriod := defaultPeriod s.cfg, timerCnt := 0, pend := false, tie := true })

/-- `ConfigFail(code)` (R107). -/
def configFail (code : ErrCode) (s : State) : State :=
  raiseCmdError code { s with init := false, tie := false, pend := false }

/-- CONFIGURE (R104): checks the staged geometry, then applies it or fails. -/
def execConfigure (s : State) : Host.Outcome State Fault Refusal :=
  match checkGeom s.cfg (stagedDims s.staged) with
  | .ok => answer (configApply s)
  | code => .next (configFail code s)

end Sys2Proof.Machine
end

