-- ==== Sys2Proof/Machine/DoubleBuffer.lean ====
section
/-! DEFINITION. The double-buffer controller: SWAP (R140-R145). -/

namespace Sys2Proof.Machine

/-- The exchange of roles, `FRONT <- 1 - FRONT` (R142). -/
def exchangeRoles (s : State) : State := { s with front := !s.front }

/-- The copy of the new front into the new back over `[0, BUFSZ)` (R143). -/
def copyFrontToBack (s : State) : Except Fault State :=
  copyBytes (bankBase s.cfg s.front) (bankBase s.cfg (backBank s)) (bufferSize (activeDims s.active)) s

/-- SWAP (R141). -/
def execSwap (copy : Bool) (s : State) : Host.Outcome State Fault Refusal :=
  if s.init then
    if copy then answer ((copyFrontToBack (exchangeRoles s)).map succeed)
    else .next (succeed (exchangeRoles s))
  else .next (raiseCmdError .notInit s)

end Sys2Proof.Machine
end

