-- ==== Sys2Proof/Machine/Drawing.lean ====
section
/-! DEFINITION. The drawing commands SETPIXEL, FILL and GETPIXEL (R120-R128). CLEAR is `FILL 0` (R126). -/

namespace Sys2Proof.Machine

/-- The byte that SETPIXEL writes back: only the addressed bit changes (R122). -/
def drawBit (b : Byte) (mask : Byte) (on : Bool) : Byte := if on then b ||| mask else b &&& ~~~ mask

/-- The read-modify-write of one pixel of the back bank (R122). -/
def drawPixel (x y : Int) (on : Bool) (s : State) : Except Fault State :=
  let a := pixAddr s.cfg (activeDims s.active) (backBank s) x y
  match memRead s a with
  | .error f => .error f
  | .ok b => memWrite s a (drawBit b (pixMask x.toNat) on)

/-- SETPIXEL (R122): an out-of-range coordinate changes no byte and succeeds (R121). -/
def execSetpixel (x y : Int) (on : Bool) (s : State) : Host.Outcome State Fault Refusal :=
  if s.init then
    if inRange (activeDims s.active) x y then
      answer ((drawPixel x y on s).map succeed)
    else .next (succeed s)
  else .next (raiseCmdError .notInit s)

/-- FILL (R124): bytes `[0, BUFSZ)` of the back bank become 0xFF or 0x00. -/
def execFill (on : Bool) (s : State) : Host.Outcome State Fault Refusal :=
  if s.init then
    answer ((fillBytes (bankBase s.cfg (backBank s)) (if on then 0xFF#8 else 0x00#8)
      (bufferSize (activeDims s.active)) s).map succeed)
  else .next (raiseCmdError .notInit s)

/-- The pixel that GETPIXEL reads, for a coordinate in range (R128). -/
def readPixel (x y : Int) (s : State) : Except Fault Bool :=
  match memRead s (pixAddr s.cfg (activeDims s.active) (backBank s) x y) with
  | .error f => .error f
  | .ok b => .ok (b &&& pixMask x.toNat != 0#8)

/-- GETPIXEL (R128): an out-of-range read gives `PIX = 0`. -/
def execGetpixel (x y : Int) (s : State) : Host.Outcome State Fault Refusal :=
  if s.init then
    if inRange (activeDims s.active) x y then
      answer ((readPixel x y s).map fun v => succeed { s with pix := v })
    else .next (succeed { s with pix := false })
  else .next (raiseCmdError .notInit s)

end Sys2Proof.Machine
end

