-- ==== Sys2Proof/Machine/Scan.lean ====
section
/-! DEFINITION. The scan engine: START and STOP (R152, R153), the tick timer (R156-R158) and the tick (R159-R168). -/

namespace Sys2Proof.Machine

/-- START (R152): programs the tick timer and enables ticks, or fails with `BAD_FREQ`. -/
def execStart (freq : Nat) (s : State) : Host.Outcome State Fault Refusal :=
  .next (if freqValid s.cfg freq then
      succeed { s with
        tickPeriod := BitVec.ofNat 24 (period s.cfg freq), timerCnt := 0, pend := false, tie := true }
    else raiseCmdError .badFreq s)

/-- STOP (R153). -/
def execStop (s : State) : Host.Outcome State Fault Refusal :=
  .next (succeed { s with tie := false, pend := false })

/-- The timer agent's step `Expire` (R157): enabled while `TIE = 1`; an expiry while `PEND = 1` is lost (R158). -/
def timerExpire (s : State) : State := if s.tie then { s with pend := true } else s

/-- One block clock of the tick timer (R157); it does not run while `TIE = 0` (R156). -/
def timerClock (s : State) : State :=
  if s.tie then
    if s.timerCnt.toNat + 1 ≥ s.tickPeriod.toNat then { s with timerCnt := 0, pend := true }
    else { s with timerCnt := s.timerCnt + 1 }
  else s

/-- The order in which a byte's bits are shifted: bit 7 first (R63, R162). -/
def bitOrder : List Nat := [7, 6, 5, 4, 3, 2, 1, 0]

/-- The 24 events of one byte in single-lane mode (R162). -/
def shiftByte (d0 : Byte) : List LineEvent :=
  bitOrder.flatMap fun i => [.data (d0.getLsbD i), .clk true, .clk false]

/-- The 24 events of one byte position in dual-lane mode (R162). -/
def shiftBytePair (d0 d1 : Byte) : List LineEvent :=
  bitOrder.flatMap fun i => [.data2 (d0.getLsbD i) (d1.getLsbD i), .clk true, .clk false]

/-- The address of byte position b of image row r in the front bank (R162). -/
def rowByteAddr (s : State) (r b : Nat) : Nat :=
  bankBase s.cfg s.front + r * bytesPerRow (activeDims s.active) + b

/-- The events of one byte position of row group r: lane 0 carries row r, and lane 1 row `r + S` (R162). -/
def shiftPosition (s : State) (r b : Nat) : Except Fault (List LineEvent) :=
  match memRead s (rowByteAddr s r b) with
  | .error f => .error f
  | .ok d0 =>
      if s.active.lanes = 2 then
        match memRead s (rowByteAddr s (r + s.active.scan.toNat) b) with
        | .error f => .error f
        | .ok d1 => .ok (shiftBytePair d0 d1)
      else .ok (shiftByte d0)

/-- The events of the first n byte positions of row group r, left to right (R162). -/
def shiftRow (s : State) (r : Nat) : Nat → Except Fault (List LineEvent)
  | 0 => .ok []
  | n + 1 =>
      match shiftRow s r n with
      | .error f => .error f
      | .ok before =>
          match shiftPosition s r n with
          | .error f => .error f
          | .ok here => .ok (before ++ here)

/-- Step 2 (R162): one row group of the front bank goes out. -/
def tickShift (r : BitVec 7) (s : State) : Except Fault State :=
  match shiftRow s r.toNat (bytesPerRow (activeDims s.active)) with
  | .error f => .error f
  | .ok events => .ok (emitAll events s)

/-- Step 3 (R163): the `ABITS` low address lines together. -/
def addressEvent (r : BitVec 7) (s : State) : LineEvent :=
  .addr (r &&& lowLines (addressBits (activeDims s.active))) (addressBits (activeDims s.active))

/-- Step 4 (R164): `LATCH_PULSES` pulses, each high then low. -/
def latchEvents (p : Params) : List LineEvent :=
  (List.replicate p.variant.latchPulses [LineEvent.lat true, LineEvent.lat false]).flatten

/-- Steps 3 and 4 in the variant's order (R160, R203). -/
def addressAndLatch (r : BitVec 7) (s : State) : List LineEvent :=
  if s.cfg.variant.addrBeforeLatch then addressEvent r s :: latchEvents s.cfg
  else latchEvents s.cfg ++ [addressEvent r s]

/-- Step 6 (R166): `ROW <- (r + 1) mod S`. -/
def tickAdvance (r : BitVec 7) (s : State) : State :=
  { s with row := BitVec.ofNat 7 ((r.toNat + 1) % s.active.scan.toNat) }

/-- The tick (R160): it clears `PEND`, and with `INIT = 1` runs the six steps in order. -/
def runTick (s : State) : Host.Outcome State Fault Refusal :=
  let t := { s with pend := false }
  if t.init then
    let r := t.row
    match tickShift r (tickEnter t) with
    | .error f => .fault f
    | .ok u => .next (tickAdvance r (tickReturn (emitAll (addressAndLatch r u) u)))
  else .next t

/-- The scan engine's turn (R159): a tick begins when `PEND = 1` and `TIE = 1`; otherwise there is nothing to serve. -/
def serveTick (s : State) : Host.Outcome State Fault Refusal :=
  if s.pend && s.tie then runTick s else .next s

end Sys2Proof.Machine
end

