-- ==== Sys2Proof/Machine/Dispatch.lean ====
section
/-! DEFINITION. One arm for each command of the opcode map (R84). -/

namespace Sys2Proof.Machine

def exec (i : Instr) (s : State) : Host.Outcome State Fault Refusal :=
  match i with
  | .nop => Sys2Proof.Machine.execNop s
  | .setgeom0 width height => Sys2Proof.Machine.execSetgeom0 width height s
  | .setgeom1 chain scan lanes => Sys2Proof.Machine.execSetgeom1 chain scan lanes s
  | .configure => Sys2Proof.Machine.execConfigure s
  | .setpixel x y on => Sys2Proof.Machine.execSetpixel x y on s
  | .fill on => Sys2Proof.Machine.execFill on s
  | .setbright value => Sys2Proof.Machine.execSetbright value s
  | .swap copy => Sys2Proof.Machine.execSwap copy s
  | .start freq => Sys2Proof.Machine.execStart freq s
  | .stop => Sys2Proof.Machine.execStop s
  | .getpixel x y => Sys2Proof.Machine.execGetpixel x y s

end Sys2Proof.Machine
end

