-- ==== Sys2Proof/Machine/Agents.lean ====
section
/-! DEFINITION. The agents of R18 around the commands: the bus port (R65-R70), the timer and the scan engine, the block
clock, and the reset input (R260, R261). -/

namespace Sys2Proof.Machine

/-- A word written to CMD runs as one command (R42); an illegal word executes as `raise CmdError(ILLEGAL)` (R85, R222). -/
def runCommand (w : Word) (s : State) : Host.Outcome State Fault Refusal :=
  match decode w with
  | .ok i => exec i s
  | .error _ => .next (raiseCmdError .illegal s)

/-- What a read of the port returns: STATUS at 0x4; CMD reads 0, and so does every undefined access (R41, R42, R67). -/
def portRead (s : State) (offset : BitVec 3) (bytes : Nat) : Word :=
  if bytes = 4 ∧ offset = 4#3 then statusWord s else 0#32

/-- One access at the port (R66, R67): a 32-bit write at 0x0 is a command; a write to STATUS and every undefined write are
ignored; a read returns a value and has no side effect on the block (R69). -/
def runAccess (a : BusAccess) (s : State) : Host.Outcome State Fault Refusal :=
  match a with
  | .write offset bytes data => if bytes = 4 ∧ offset = 0#3 then runCommand data s else .next s
  | .read offset bytes => .next { s with busReads := s.busReads ++ [portRead s offset bytes] }

/-- The port offset of an address of the platform, for the 8 bytes from `DRS_BASE`; the rest of the address space is not the
block's (R65, R66). -/
def portOffset (p : Params) (addr : Nat) : Option (BitVec 3) :=
  if p.drsBase ≤ addr ∧ addr < p.drsBase + 8 then some (BitVec.ofNat 3 (addr - p.drsBase)) else none

/-- The access by which a bus master writes a data word of the given width at a platform address (R66). -/
def platformWrite (p : Params) (addr bytes : Nat) (data : Word) : Option BusAccess :=
  (portOffset p addr).map fun offset => .write offset bytes data

/-- The access by which a bus master reads at a platform address (R66). -/
def platformRead (p : Params) (addr bytes : Nat) : Option BusAccess :=
  (portOffset p addr).map fun offset => .read offset bytes

/-- One block clock: the tick timer (R157) and the PWM counter (R36) advance. -/
def blockClock (s : State) : State := pwmClock (timerClock s)

/-- The reset input between two steps (R260, R261): the reset state; the parameters survive, the banks become unspecified, and
what the bus masters still offer and have read is theirs (log 5). -/
def resetBlock (s : State) : State :=
  { State.resetWith s.cfg (s.epoch + 1) with busReads := s.busReads, agenda := s.agenda }

/-- One step of the agent that the input names. -/
def runInput (i : Input) (s : State) : Host.Outcome State Fault Refusal :=
  match i with
  | .bus a => runAccess a s
  | .expire => .next (timerExpire s)
  | .tick => serveTick s
  | .clock => .next (blockClock s)
  | .reset => .next (resetBlock s)

/-- The block with nothing offered from outside: at the arbitration point a pending tick starts (R159, R225), else a block
clock passes (log 4). -/
def runAlone (s : State) : Host.Outcome State Fault Refusal :=
  if s.pend && s.tie then runTick s else .next (blockClock s)

/-- The step: what the agenda offers first, or the block by itself. -/
def stepBlock (s : State) : Host.Outcome State Fault Refusal :=
  match s.agenda with
  | i :: rest => runInput i { s with agenda := rest }
  | [] => runAlone s

/-- The write of a command word to CMD (R66). -/
def commandWrite (w : Word) : Input := .bus (.write 0#3 4 w)

/-- A state whose next step is the write of the command word w to CMD. -/
def offerCommand (w : Word) (s : State) : State := { s with agenda := commandWrite w :: s.agenda }

end Sys2Proof.Machine
end

