-- ==== Sys2Proof/Machine/Step.lean ====
section
/-! DEFINITION. The step of the machine, and where it takes its next command from. -/

namespace Sys2Proof.Machine

/-- One atomic step of the block and its surroundings (R71). -/
def step (s : State) : Host.Outcome State Fault Refusal := stepBlock s

/-- The state whose next step runs an opcode-table word: the block fetches nothing (R21), so the word is offered as the next
write to CMD (log 7). -/
def State.withFetchWord (s : State) (nbits w : Nat) : State := offerCommand (tableWord nbits w) s

end Sys2Proof.Machine
end

