-- ==== Sys2Proof/Machine/Assembler.lean ====
section
/-! DEFINITION. The assembler syntax (R88), the pseudo-instructions (R89), and the host's command sequences of R7 and R263. -/

namespace Sys2Proof.Machine

/-- Why the assembler refuses a line; it then emits no word (R88). -/
inductive AsmError where
  | unknownMnemonic
  | operandCount (expected : Nat)
  | notANumber
  /-- "An operand outside its range is an assembly error: the assembler refuses it" (R88). -/
  | outOfRange
  deriving DecidableEq, Repr

/-- A line's operation: a command of R88 or a pseudo-instruction of R89. -/
inductive AsmOp where
  | command (i : Instr)
  /-- CLEAR. -/
  | clear
  /-- CLRPIXEL x, y. -/
  | clrpixel (x y : Int)
  /-- BEGIN w, h, chain, scan, lanes. -/
  | begin_ (width height chain scan lanes : Nat)
  deriving DecidableEq, Repr

/-- The expansion of R89; a command stands for itself. -/
def expandOp : AsmOp → List Instr
  | .command i => [i]
  | .clear => [.fill false]
  | .clrpixel x y => [.setpixel x y false]
  | .begin_ width height chain scan lanes => [.setgeom0 width height, .setgeom1 chain scan lanes, .configure]

/-- The words of an operation; refused when an operand is outside its range (R88). -/
def assembleOp (op : AsmOp) : Except AsmError (List Word) :=
  if (expandOp op).all Instr.wellFormed then .ok ((expandOp op).map encode) else .error .outOfRange

/-- The value of a decimal or hexadecimal digit. -/
def digitValue (c : Char) : Option Nat :=
  let n := c.toNat
  if 48 ≤ n ∧ n ≤ 57 then some (n - 48)
  else if 97 ≤ n ∧ n ≤ 102 then some (n - 87)
  else if 65 ≤ n ∧ n ≤ 70 then some (n - 55)
  else none

/-- The digits that follow a number read so far, in a base. -/
def readDigits (base : Nat) : List Char → Nat → Option Nat
  | [], acc => some acc
  | c :: cs, acc =>
      match digitValue c with
      | some d => if d < base then readDigits base cs (acc * base + d) else none
      | none => none

/-- An unsigned decimal or `0x` hexadecimal number (R88). -/
def readUnsigned : List Char → Option Nat
  | [] => none
  | ['0', 'x'] => none
  | '0' :: 'x' :: cs => readDigits 16 cs 0
  | cs => readDigits 10 cs 0

/-- An operand: an unsigned number, or a minus sign and one (the coordinates of R88 go below 0). -/
def readNumber : List Char → Option Int
  | '-' :: cs => (readUnsigned cs).map fun n => -(n : Int)
  | cs => (readUnsigned cs).map fun n => (n : Int)

/-- Cut a line at a character. -/
def cutAt (sep : Char) : List Char → List (List Char)
  | [] => [[]]
  | c :: cs =>
      if c = sep then [] :: cutAt sep cs
      else
        match cutAt sep cs with
        | piece :: rest => (c :: piece) :: rest
        | [] => [[c]]

/-- The operands after a mnemonic, separated by commas, spaces left out. -/
def readOperands (cs : List Char) : Option (List Int) :=
  match cs.filter (· ≠ ' ') with
  | [] => some []
  | bare => (cutAt ',' bare).mapM readNumber

/-- An operand that is a flag: 0 or 1. -/
def flagOperand (z : Int) : Option Bool := if z = 0 then some false else if z = 1 then some true else none

/-- An operand that is an unsigned number. -/
def natOperand (z : Int) : Option Nat := if 0 ≤ z then some z.toNat else none

/-- How many operands a mnemonic takes (R88, R89). -/
def operandCount (mnemonic : String) : Option Nat :=
  match mnemonic with
  | "NOP" | "CONFIGURE" | "STOP" | "CLEAR" => some 0
  | "FILL" | "SETBRIGHT" | "SWAP" | "START" => some 1
  | "SETGEOM0" | "GETPIXEL" | "CLRPIXEL" => some 2
  | "SETGEOM1" | "SETPIXEL" => some 3
  | "BEGIN" => some 5
  | _ => none

/-- The operation of a mnemonic and its operands (R88, R89); none when an operand has no value of its kind. -/
def readOp (mnemonic : String) (operands : List Int) : Option AsmOp :=
  match mnemonic, operands with
  | "NOP", [] => some (.command .nop)
  | "SETGEOM0", [w, h] => do some (.command (.setgeom0 (← natOperand w) (← natOperand h)))
  | "SETGEOM1", [c, s, l] => do some (.command (.setgeom1 (← natOperand c) (← natOperand s) (← natOperand l)))
  | "CONFIGURE", [] => some (.command .configure)
  | "SETPIXEL", [x, y, on] => do some (.command (.setpixel x y (← flagOperand on)))
  | "FILL", [on] => do some (.command (.fill (← flagOperand on)))
  | "SETBRIGHT", [v] => do some (.command (.setbright (← natOperand v)))
  | "SWAP", [c] => do some (.command (.swap (← flagOperand c)))
  | "START", [f] => do some (.command (.start (← natOperand f)))
  | "STOP", [] => some (.command .stop)
  | "GETPIXEL", [x, y] => some (.command (.getpixel x y))
  | "CLEAR", [] => some .clear
  | "CLRPIXEL", [x, y] => some (.clrpixel x y)
  | "BEGIN", [w, h, c, s, l] => do
      some (.begin_ (← natOperand w) (← natOperand h) (← natOperand c) (← natOperand s) (← natOperand l))
  | _, _ => none

/-- The assembler on one line, `MNEMONIC operand, operand, ...` (R88): the words it emits, or why it refuses the line. -/
def assembleLine (line : String) : Except AsmError (List Word) :=
  let cs := line.toList
  let mnemonic := String.ofList (cs.takeWhile (· ≠ ' '))
  match operandCount mnemonic, readOperands (cs.dropWhile (· ≠ ' ')) with
  | none, _ => .error .unknownMnemonic
  | some _, none => .error .notANumber
  | some n, some operands =>
      if operands.length ≠ n then .error (.operandCount n)
      else
        match readOp mnemonic operands with
        | some op => assembleOp op
        | none => .error .outOfRange

/-- The commands of LEDP's centred text for the lit pixels the host has laid out: CLEAR, one SETPIXEL each, `SWAP 1` (R7). -/
def textCommands (pixels : List (Int × Int)) : List Instr :=
  .fill false :: pixels.map (fun q => .setpixel q.1 q.2 true) ++ [.swap true]

/-- The boot sequence up to the optional START (R263): geometry, CONFIGURE, brightness. -/
def bootCommands (width height chain scan lanes brightness : Nat) : List Instr :=
  expandOp (.begin_ width height chain scan lanes) ++ [.setbright brightness]

end Sys2Proof.Machine
end

