-- ==== Sys2Proof/Machine/PanelLines.lean ====
section
/-! DEFINITION. What the panel's lines carry (R37, R186, R200) and how much of a PWM period is lit (R187, R262). -/

namespace Sys2Proof.Machine

/-- A panel line as the panel sees it. -/
inductive Level where
  /-- High-impedance. -/
  | z
  | low
  | high
  deriving DecidableEq, Repr

/-- A driven line at a level; high-impedance while `LINE_EN = 0` (R37). -/
def lineLevel (s : State) (v : Bool) : Level := if s.lineEn then (if v then .high else .low) else .z

/-- `OE_N` (R186). -/
def oeN (s : State) : Level := lineLevel s (if s.init then pwmOff s.pwmCnt s.duty else true)

/-- `DATA0` (R200). -/
def data0Line (s : State) : Level := lineLevel s s.lines.data0

/-- `DATA1`, absent unless `NUM_DATA_LINES = 2` (R200). -/
def data1Line (s : State) : Option Level :=
  if s.cfg.variant.numDataLines = 2 then some (lineLevel s s.lines.data1) else none

/-- `CLK` (R200). -/
def clkLine (s : State) : Level := lineLevel s s.lines.clk

/-- `LAT` (R200). -/
def latLine (s : State) : Level := lineLevel s s.lines.lat

/-- `ADDR[k]`, absent from `NUM_ADDR_LINES` up (R200). -/
def addrLine (s : State) (k : Nat) : Option Level :=
  if k < s.cfg.variant.numAddrLines then some (lineLevel s (s.lines.addr.getLsbD k)) else none

/-- The lit steps of a PWM period, out of 2^8 (R187); not fixed by the spec while the lines are undriven (R262). -/
def panelLit (s : State) : Option Nat :=
  if s.lineEn then some (if s.init then litSteps s.duty else 0) else none

end Sys2Proof.Machine
end

