-- ==== Sys2Proof/Machine/Timing.lean ====
section
/-! DEFINITION. The reference timing (R281) and the deadline of R265. Informative: no step of the model reads it (R280). -/

namespace Sys2Proof.Machine

/-- The events of a tick with `INIT = 1`: `24 × BPR + 2 × LATCH_PULSES + 3` (R168). -/
def tickEventCount (s : State) : Nat := 24 * bytesPerRow (activeDims s.active) + 2 * s.cfg.variant.latchPulses + 3

/-- Reference block clocks of a tick (R281): one for each event and 2 for entry and exit; 1 with `INIT = 0`. -/
def tickClocks (s : State) : Nat := if s.init then tickEventCount s + 2 else 1

/-- Reference block clocks of a command (R281). -/
def commandClocks (i : Instr) (s : State) : Nat :=
  match i with
  | .fill _ => bufferSize (activeDims s.active) + 1
  | .swap copy => if copy then bufferSize (activeDims s.active) + 1 else 1
  | .configure =>
      if checkGeom s.cfg (stagedDims s.staged) = .ok then bufferSize (stagedDims s.staged) + 2 else 1
  | .nop | .setgeom0 _ _ | .setgeom1 _ _ _ | .setpixel _ _ _ | .setbright _ | .start _ | .stop | .getpixel _ _ => 1

/-- The design-time constraint of R265 on a tick: it is shorter than the tick period. -/
def tickMeetsDeadline (s : State) : Bool := decide (tickClocks s < s.tickPeriod.toNat)

/-- The design-time constraint of R265 on a command run between two ticks. -/
def commandMeetsDeadline (i : Instr) (s : State) : Bool := decide (commandClocks i s < s.tickPeriod.toNat)

end Sys2Proof.Machine
end

