-- ==== Sys2Proof/Safety.lean ====
section
/-! DEFINITION. What holds of the block between steps: the invariants of R44, the whole invariant that every step keeps, and
the states that a block reaches. -/

namespace Sys2Proof.Machine

/-- The five invariants of R44, (a) to (e). -/
structure State.RuleInv (s : State) : Prop where
  /-- (a) `INIT = 1` implies that the active geometry passes every check of R105. -/
  geometry : s.init = true → checkGeom s.cfg (activeDims s.active) = .ok
  /-- (b) `INIT = 1` implies `ROW < S`. -/
  row : s.init = true → s.row.toNat < s.active.scan.toNat
  /-- (c) `DUTY = GAMMA_LUT[BRIGHT]`. -/
  duty : s.duty = s.cfg.gamma s.bright
  /-- (d) `ERR` is one of the codes of R220. -/
  err : ∃ c : ErrCode, s.err = errNumber c
  /-- (e) `TIE = 0` implies `PEND = 0`. -/
  pend : s.tie = false → s.pend = false

/-- The framebuffer memory is in its canonical form, and inside the address space of R60. -/
structure State.MemInv (s : State) : Prop where
  wf : s.mem.wf
  inSpace : ∀ c ∈ s.mem, c.1 < spaceSize s.cfg

/-- The panel lines between steps: driven once configured (R37), `CLK` and `LAT` at 0 (R204), absent lines at 0 (R38), and
while configured the address lines from `ABITS` up at 0 (R207). -/
structure State.LineInv (s : State) : Prop where
  driven : s.init = true → s.lineEn = true
  clkLow : s.lines.clk = false
  latLow : s.lines.lat = false
  data1Absent : s.cfg.variant.numDataLines = 1 → s.lines.data1 = false
  addrAbsent : s.lines.addr.toNat < 2 ^ s.cfg.variant.numAddrLines
  addrHigh : s.init = true → s.lines.addr.toNat < 2 ^ addressBits (activeDims s.active)

/-- The invariant of the model: R44, `L` of R34, the memory, the lines, and the counters below their limits (R35, R36). -/
structure State.Inv (s : State) : Prop where
  cfg : s.cfg.Valid
  rule : s.RuleInv
  lanes : s.init = true → s.active.lanes = 1 ∨ s.active.lanes = 2
  mem : s.MemInv
  lines : s.LineInv
  timer : s.tie = true → s.timerCnt.toNat < s.tickPeriod.toNat
  pwm : s.pwmPhase < s.cfg.pwmPrescale

/-- The states that a block with some accepted parameters reaches, whatever the outside offers it and whenever (R71, R72). -/
inductive State.Reachable : State → Prop where
  | powerOn (p : Params) (epoch : Nat) (accepted : p.Valid) : Reachable (State.resetWith p epoch)
  | offered (s : State) (agenda : List Input) (before : Reachable s) : Reachable { s with agenda := agenda }
  | stepped (s t : State) (before : Reachable s) (stepTo : step s = .next t) : Reachable t

/-- The machine goes on: the next step answers a state, not a fault or a refusal (R223, R229). -/
def State.goesOn (s : State) : Prop := ∃ t, step s = .next t

/-- Several steps in a row, stopping at the first that does not answer a state. -/
def runSteps : Nat → State → Host.Outcome State Fault Refusal
  | 0, s => .next s
  | n + 1, s =>
      match step s with
      | .next t => runSteps n t
      | .fault f => .fault f
      | .refused r => .refused r

/-- Whether an address is one of the used bytes `[0, BUFSZ)` of a bank (R60, R64). -/
abbrev InBank (p : Params) (d : Dims) (bank : Bool) (a : Nat) : Prop :=
  bankBase p bank ≤ a ∧ a < bankBase p bank + bufferSize d

/-- Pixel (x, y) of a bank: the bit that R62 names, in the byte that R62 names. -/
def pixelAt (s : State) (bank : Bool) (x y : Nat) : Bool :=
  byteAt s (bankBase s.cfg bank + pixOff (activeDims s.active) x y) &&& pixMask x != 0#8

/-- What a tick shifts for one column of row group r (R162): the front bank's pixel on lane 0, in dual-lane mode also the
pixel `S` rows below on lane 1, and one clock pulse. -/
def columnEvents (s : State) (r x : Nat) : List LineEvent :=
  (if s.active.lanes = 2 then
    LineEvent.data2 (pixelAt s s.front x r) (pixelAt s s.front x (r + s.active.scan.toNat))
  else LineEvent.data (pixelAt s s.front x r)) :: [LineEvent.clk true, LineEvent.clk false]

/-- What a tick shifts for row group r: every column of the chain, column 0 first (R63, R162). -/
def rowEvents (s : State) (r : Nat) : List LineEvent :=
  (List.range (totalWidth (activeDims s.active))).flatMap (columnEvents s r)

/-- The events of a tick with `INIT = 1`, in the order of R167. -/
def tickEvents (s : State) : List LineEvent :=
  [.duty dutyOff] ++ rowEvents s s.row.toNat ++ addressAndLatch s.row s ++ [.duty s.duty]

/-- The line levels after some events. -/
def linesAfter (es : List LineEvent) (l : Lines) : Lines := es.foldl (fun l e => lineLevels e l) l

end Sys2Proof.Machine
end

