-- ==== Sys2Proof/Certificates/Slice0/Obligations.lean ====
section
/-! DEFINITION. The statements for the provers. -/

open Sys2Proof Sys2Proof.Machine

/-! ### What the statements are written with -/

namespace Sys2Proof.Statements

/-- A row of R84's table, written out here: mnemonic, match, mask. -/
abbrev MapRow := String × Word × Word

/-- R84's table. -/
def specRows : List MapRow :=
  [ ("NOP", 0x00000000#32, 0xFFFFFFFF#32), ("SETGEOM0", 0x10000000#32, 0xFE000000#32),
    ("SETGEOM1", 0x20000000#32, 0xFFFE0000#32), ("CONFIGURE", 0x30000000#32, 0xFFFFFFFF#32),
    ("SETPIXEL", 0x40000000#32, 0xF0000000#32), ("FILL", 0x50000000#32, 0xFFFFFFFE#32),
    ("SETBRIGHT", 0x60000000#32, 0xFFFFFF00#32), ("SWAP", 0x70000000#32, 0xFFFFFFFE#32),
    ("START", 0x80000000#32, 0xFFF00000#32), ("STOP", 0x90000000#32, 0xFFFFFFFF#32),
    ("GETPIXEL", 0xA0000000#32, 0xF8000000#32) ]

/-- A word fits a row: `cmd & mask = match`. -/
abbrev fits (w : Word) (r : MapRow) : Prop := w &&& r.2.2 = r.2.1

/-- A word's bits hi down to lo as a number, R12's `v[hi:lo]`. -/
abbrev bits (w : Word) (hi lo : Nat) : Nat := w.toNat / 2 ^ lo % 2 ^ (hi - lo + 1)

/-- R82's `sext_32(cmd[13:0])`, as a signed number. -/
abbrev sextX (w : Word) : Int := ((w.extractLsb' 0 14).signExtend 32).toInt

/-- R82's `sext_32(cmd[26:14])`, as a signed number. -/
abbrev sextY (w : Word) : Int := ((w.extractLsb' 14 13).signExtend 32).toInt

/-- The step that writes word w to CMD. -/
abbrev commandStep (w : Word) (s : State) : Host.Outcome State Fault Refusal := step (s.withFetchWord 32 w.toNat)

/-- The program notation `TICK` of 95_test_vectors.md, n times: an `Expire` step and then the tick it enables. -/
def ticks (n : Nat) : List Input := (List.replicate n [Input.expire, Input.tick]).flatten

/-- The inputs that are neither a bus access nor the reset input. -/
abbrev ofTheBlock (i : Input) : Prop := i = .expire ∨ i = .tick ∨ i = .clock

/-- The staged geometry passes R105's checks, written out: `W × CHAIN` a non-zero multiple of 8 and at most 8191; `S` a power of
two that the address lines reach; no more lanes than are wired; `H = lanes × S`; and the buffer fits a bank. -/
def stagedGeometryGood (s : State) : Prop :=
  s.staged.width.toNat ≠ 0 ∧ s.staged.chain.toNat ≠ 0 ∧
  s.staged.width.toNat * s.staged.chain.toNat % 8 = 0 ∧ s.staged.width.toNat * s.staged.chain.toNat ≤ 8191 ∧
  (∃ k ≤ s.cfg.variant.numAddrLines, s.staged.scan.toNat = 2 ^ k) ∧
  s.staged.lanesBit.toNat + 1 ≤ s.cfg.variant.numDataLines ∧
  s.staged.height.toNat = (s.staged.lanesBit.toNat + 1) * s.staged.scan.toNat ∧
  s.staged.width.toNat * s.staged.chain.toNat / 8 * s.staged.height.toNat ≤ s.cfg.fbCapacity

/-- A line that is driven at a level. -/
abbrev drivenAt (v : Bool) : Level := if v then .high else .low

/-- A column and a row inside the active geometry (R121). -/
abbrev insidePanel (s : State) (x y : Int) : Prop :=
  0 ≤ x ∧ x < s.active.width.toNat * s.active.chain.toNat ∧ 0 ≤ y ∧ y < s.active.height.toNat

end Sys2Proof.Statements

open Sys2Proof.Statements

/-! ### Encoding -/

/-- R90: every example of its table decodes to the command it stands for, that command encodes to the word, and CLEAR assembles
to its word. -/
def Obligations.SpecWordsDecodeAndEncode : Prop :=
  assembleOp .clear = .ok [0x50000000#32] ∧
  ∀ q ∈ ([ (.setgeom0 64 32, 0x10040040#32), (.setgeom1 1 16 2, 0x20011001#32), (.setgeom1 1 2 1, 0x20000201#32),
      (.setpixel 0 0 true, 0x48000000#32), (.setpixel (-1) 0 true, 0x48003FFF#32), (.setpixel 64 0 true, 0x48000040#32),
      (.setpixel 0 (-1) true, 0x4FFFC000#32), (.setpixel 63 31 true, 0x4807C03F#32), (.setpixel 5 1 false, 0x40004005#32),
      (.getpixel 0 0, 0xA0000000#32), (.fill true, 0x50000001#32), (.fill false, 0x50000000#32),
      (.setbright 255, 0x600000FF#32), (.swap true, 0x70000001#32), (.start 1000, 0x800003E8#32),
      (.stop, 0x90000000#32) ] : List (Instr × Word)),
    decode q.2 = .ok q.1 ∧ encode q.1 = q.2

/-- R84: for each row of the opcode map, a word decodes to that row's command exactly when `cmd & mask = match`; the rows have the
opcodes 0x0 to 0xA in order, opcodes 0xB to 0xF have none, and no match has a 1 outside its mask. -/
def Obligations.OpcodeMapIsExact : Prop :=
  (∀ r ∈ specRows, ∀ w : Word, fits w r ↔ ∃ i, decode w = .ok i ∧ i.mnemonic = r.1) ∧
  (specRows.map fun r => bits r.2.1 31 28) = List.range 11 ∧
  (∀ w : Word, 0xB ≤ bits w 31 28 → ∃ e, decode w = .error e) ∧
  ∀ r ∈ specRows, r.2.1 &&& ~~~ r.2.2 = 0#32

/-- R86: the decoder answers on every word, a command when a row matches and ILLEGAL when none does, and at most one row
matches any word. -/
def Obligations.DecoderTotalAndUnambiguous : Prop :=
  (∀ w : Word, (∃ r ∈ specRows, fits w r ∧ ∃ i, decode w = .ok i ∧ i.mnemonic = r.1) ∨
    ((∀ r ∈ specRows, ¬ fits w r) ∧ ∃ e, decode w = .error e)) ∧
  ∀ w : Word, ∀ r ∈ specRows, ∀ q ∈ specRows, fits w r → fits w q → r = q

/-- R82, R83: the operands of a decoded word are its fields, at R82's bits, signed for X and Y, `LANES + 1` for the lanes. -/
def Obligations.FieldsAtTheirBits : Prop :=
  ∀ w : Word,
    (w &&& 0xFE000000#32 = 0x10000000#32 → decode w = .ok (.setgeom0 (bits w 12 0) (bits w 24 13))) ∧
    (w &&& 0xFFFE0000#32 = 0x20000000#32 →
      decode w = .ok (.setgeom1 (bits w 7 0) (bits w 15 8) (bits w 16 16 + 1))) ∧
    (w &&& 0xF0000000#32 = 0x40000000#32 → decode w = .ok (.setpixel (sextX w) (sextY w) (decide (bits w 27 27 = 1)))) ∧
    (w &&& 0xF8000000#32 = 0xA0000000#32 → decode w = .ok (.getpixel (sextX w) (sextY w))) ∧
    (w &&& 0xFFFFFFFE#32 = 0x50000000#32 → decode w = .ok (.fill (decide (bits w 0 0 = 1)))) ∧
    (w &&& 0xFFFFFFFE#32 = 0x70000000#32 → decode w = .ok (.swap (decide (bits w 0 0 = 1)))) ∧
    (w &&& 0xFFFFFF00#32 = 0x60000000#32 → decode w = .ok (.setbright (bits w 7 0))) ∧
    (w &&& 0xFFF00000#32 = 0x80000000#32 → decode w = .ok (.start (bits w 19 0)))

/-- Headline: decoding the word (or the four bus lanes) of a well-formed command gives the command back, every operand at
every value that the encoding admits (R82, R86, R88; the byte lanes R68). -/
def Obligations.EncodeThenDecode : Prop :=
  ∀ i : Instr, i.wellFormed = true →
    decode (encode i) = .ok i ∧ ∀ rest, decodeBytes (encodeBytes i ++ rest) = .ok (i, rest)

/-- Headline: a word that decodes to a command is that command's only word, and the command is well formed (R82, R86, R88). -/
def Obligations.DecodeThenEncode : Prop :=
  ∀ (w : Word) (i : Instr), decode w = .ok i → i.wellFormed = true ∧ encode i = w

/-- R85, R222: a word that no row matches has opcode 0xB to 0xF, or the opcode of a row and a reserved bit set; written to CMD
it makes `ERR` 1 and changes nothing else. -/
def Obligations.IllegalWordOnlySetsErr : Prop :=
  ∀ w : Word, (∀ r ∈ specRows, ¬ fits w r) →
    (0xB ≤ bits w 31 28 ∨
      ∃ r ∈ specRows, bits w 31 28 = bits r.2.1 31 28 ∧ w &&& r.2.2 &&& 0x0FFFFFFF#32 ≠ 0#32) ∧
    ∀ s : State, commandStep w s = .next { s with err := 1#4 }

/-! ### The step and the bus -/

/-- A step runs the decoded command: where the agenda's next input is a 32-bit write of a word at offset 0x0 and the word
decodes, the step is `exec` of the command on the state without that input; `withFetchWord` offers exactly that write. -/
def Obligations.StepRunsDecodedCommand : Prop :=
  ∀ (s : State) (w : Word) (i : Instr), decode w = .ok i →
    (∀ rest, s.agenda = .bus (.write 0#3 4 w) :: rest → step s = exec i { s with agenda := rest }) ∧
    commandStep w s = exec i s

/-- R67: an access that is not a 32-bit access at 0x0 or 0x4 is ignored: a write changes nothing, a read returns 0 and changes
nothing (`busReads` records what reads return, `agenda` loses the access). -/
def Obligations.StrayAccessesIgnored : Prop :=
  ∀ (s : State) (rest : List Input) (offset : BitVec 3) (bytes : Nat), ¬ (bytes = 4 ∧ (offset = 0#3 ∨ offset = 4#3)) →
    (∀ data, s.agenda = .bus (.write offset bytes data) :: rest → step s = .next { s with agenda := rest }) ∧
    (s.agenda = .bus (.read offset bytes) :: rest →
      step s = .next { s with agenda := rest, busReads := s.busReads ++ [0#32] })

/-- R41: STATUS is read at 0x4, ignores writes, has its fields at R41's bits and its reserved bits at 0, is R41's
concatenation, and reads 0 at reset; a read has no side effect. -/
def Obligations.StatusRegisterLayout : Prop :=
  (∀ (s : State) (rest : List Input),
    (s.agenda = .bus (.read 4#3 4) :: rest →
      step s = .next { s with agenda := rest, busReads := s.busReads ++ [statusWord s] }) ∧
    ∀ data, s.agenda = .bus (.write 4#3 4 data) :: rest → step s = .next { s with agenda := rest }) ∧
  (∀ s : State,
    bits (statusWord s) 0 0 = s.init.toNat ∧ bits (statusWord s) 1 1 = s.tie.toNat ∧
    bits (statusWord s) 2 2 = s.pend.toNat ∧ bits (statusWord s) 3 3 = s.front.toNat ∧
    bits (statusWord s) 4 4 = s.pix.toNat ∧ bits (statusWord s) 7 5 = 0 ∧
    bits (statusWord s) 11 8 = s.err.toNat ∧ bits (statusWord s) 15 12 = 0 ∧
    bits (statusWord s) 22 16 = s.row.toNat ∧ bits (statusWord s) 23 23 = 0 ∧
    bits (statusWord s) 31 24 = s.bright.toNat ∧
    statusWord s = s.bright ++ 0#1 ++ s.row ++ 0#4 ++ s.err ++ 0#3 ++ BitVec.ofBool s.pix ++ BitVec.ofBool s.front ++
      BitVec.ofBool s.pend ++ BitVec.ofBool s.tie ++ BitVec.ofBool s.init) ∧
  statusWord State.reset = 0x00000000#32

/-- R42: a write of a word to CMD executes that word as one command, an illegal word as `raise CmdError(ILLEGAL)`; a read of
CMD returns 0 and has no side effect. -/
def Obligations.CommandRegisterRunsItsWord : Prop :=
  ∀ (s : State) (rest : List Input),
    (∀ w, s.agenda = .bus (.write 0#3 4 w) :: rest →
      (∀ i, decode w = .ok i → step s = exec i { s with agenda := rest }) ∧
      (∀ e, decode w = .error e → step s = .next { s with agenda := rest, err := 1#4 })) ∧
    (s.agenda = .bus (.read 0#3 4) :: rest →
      step s = .next { s with agenda := rest, busReads := s.busReads ++ [0#32] })

/-- R65, R66: from `DRS_BASE` the port has 8 bytes: a write and a read of any width whose first byte is one of them reach the
port at that byte's offset, so CMD is at `DRS_BASE` and STATUS at `DRS_BASE + 4`. An access that begins outside them does not
reach the block, whatever its width: that clause is the model's reading (log 14), not a sentence of the spec. -/
def Obligations.RegisterMapAtBase : Prop :=
  ∀ (p : Params) (data : Word) (bytes addr : Nat),
    (∀ k < 8, platformWrite p (p.drsBase + k) bytes data = some (.write (BitVec.ofNat 3 k) bytes data) ∧
      platformRead p (p.drsBase + k) bytes = some (.read (BitVec.ofNat 3 k) bytes)) ∧
    platformWrite p p.drsBase 4 data = some (.write 0#3 4 data) ∧
    platformRead p (p.drsBase + 4) 4 = some (.read 4#3 4) ∧
    (addr < p.drsBase ∨ p.drsBase + 8 ≤ addr →
      platformWrite p addr bytes data = none ∧ platformRead p addr bytes = none)

/-! ### Reset and the invariant -/

/-- R47: the reset values, after power-on and after the block's reset input, which leaves `GAMMA_LUT` alone; the banks have no
value, and no clause. -/
def Obligations.ResetValues : Prop :=
  ∀ r : State, (r = State.reset ∨ ∃ s rest, s.agenda = .reset :: rest ∧ step s = .next r) →
    r.init = false ∧ r.tie = false ∧ r.pend = false ∧ r.row = 0#7 ∧ r.front = false ∧ r.bright = 0#8 ∧
    r.duty = 255#8 ∧ r.snap = 255#8 ∧ r.err = 0#4 ∧ r.pix = false ∧
    r.staged = ⟨0#13, 0#12, 0#8, 0#8, 0#1⟩ ∧ r.active = ⟨0#13, 0#12, 0#8, 0#8, 0#2⟩ ∧
    r.tickPeriod = 0#24 ∧ r.timerCnt = 0#24 ∧ r.pwmCnt = 0#8 ∧ r.lineEn = false ∧
    r.lines = ⟨false, false, false, false, 0#7⟩ ∧ statusWord r = 0x00000000#32 ∧ r.trace = [] ∧
    ∀ s rest, s.agenda = .reset :: rest → step s = .next r → r.cfg.gammaLut = s.cfg.gammaLut

/-- R260, R261 (the model's form of the reset input, log 5): the reset input between two steps puts every register at its reset
value, empties the trace and keeps the parameters; the banks read as free values of a new reset number. -/
def Obligations.ResetInputRestoresResetState : Prop :=
  ∀ (s : State) (rest : List Input), s.agenda = .reset :: rest →
    ∃ t, step s = .next t ∧
      t = { State.resetWith s.cfg (s.epoch + 1) with agenda := rest, busReads := s.busReads } ∧
      statusWord t = 0x00000000#32 ∧ t.trace = [] ∧ t.cfg = s.cfg ∧ scanState t = .idle ∧ oeN t = .z ∧
      ∀ a, a < 2 * s.cfg.fbCapacity → memRead t a = .ok (Config.powerOnByte (s.epoch + 1) a)

/-- The model's invariant (log 9) holds at reset. -/
def Obligations.ResetMeetsInvariant : Prop := State.reset.Inv

/-- Headline: every step from a state of the invariant, whatever the agenda offers, leads to a state of the invariant. -/
def Obligations.StepKeepsInvariant : Prop :=
  ∀ s t : State, s.Inv → step s = .next t → t.Inv

/-- R44: in every state that a block with accepted parameters reaches, whatever the outside offers it, the five invariants. -/
def Obligations.ReachableStatesMeetRule44 : Prop :=
  ∀ s : State, s.Reachable →
    (s.init = true → checkGeom s.cfg (activeDims s.active) = .ok) ∧
    (s.init = true → s.row.toNat < s.active.scan.toNat) ∧
    (s.duty = s.cfg.gamma s.bright ∧ s.cfg.gamma 0#8 = 255#8) ∧
    s.err.toNat ≤ 9 ∧
    (s.tie = false → s.pend = false)

/-- Headline: from every state of the invariant the next step answers a state, never a fault or a refusal: no command and no
tick computes an address outside the framebuffer space (R60), and nothing traps (R223, R229). -/
def Obligations.InvariantStatesNeverStop : Prop :=
  ∀ s : State, s.Inv → ∃ t, step s = .next t

/-! ### Configuration commands -/

/-- R101: NOP is the word 0x00000000 exactly; it writes `ERR <- 0` and changes nothing else; any other word with op 0x0 is
illegal. -/
def Obligations.NopOnlyClearsErr : Prop :=
  (∀ s : State, exec .nop s = .next { s with err := 0#4 }) ∧ decode 0x00000000#32 = .ok .nop ∧
  ∀ w : Word, bits w 31 28 = 0 → w ≠ 0x00000000#32 →
    (∃ e, decode w = .error e) ∧ ∀ s : State, commandStep w s = .next { s with err := 1#4 }

/-- R102: SETGEOM0 stages width and height, unchecked, clears `ERR` and changes nothing else, the active geometry included. -/
def Obligations.Setgeom0StagesWidthAndHeight : Prop :=
  (∀ (s : State) (width height : Nat), width ≤ 8191 → height ≤ 4095 →
    ∃ t, exec (.setgeom0 width height) s = .next t ∧
      t = { s with staged := t.staged, err := 0#4 } ∧
      t.staged.width.toNat = width ∧ t.staged.height.toNat = height ∧ t.staged.chain = s.staged.chain ∧
      t.staged.scan = s.staged.scan ∧ t.staged.lanesBit = s.staged.lanesBit) ∧
  ∀ w : Word, w &&& 0xFE000000#32 = 0x10000000#32 → decode w = .ok (.setgeom0 (bits w 12 0) (bits w 24 13))

/-- R103: SETGEOM1 stages chain, scan depth and the `LANES` bit, unchecked, clears `ERR` and changes nothing else. -/
def Obligations.Setgeom1StagesChainScanLanes : Prop :=
  (∀ (s : State) (chain scan lanes : Nat), chain ≤ 255 → scan ≤ 255 → lanes = 1 ∨ lanes = 2 →
    ∃ t, exec (.setgeom1 chain scan lanes) s = .next t ∧
      t = { s with staged := t.staged, err := 0#4 } ∧
      t.staged.chain.toNat = chain ∧ t.staged.scan.toNat = scan ∧ t.staged.lanesBit.toNat + 1 = lanes ∧
      t.staged.width = s.staged.width ∧ t.staged.height = s.staged.height) ∧
  ∀ w : Word, w &&& 0xFFFE0000#32 = 0x20000000#32 →
    decode w = .ok (.setgeom1 (bits w 7 0) (bits w 15 8) (bits w 16 16 + 1))

/-- R105, R226: CONFIGURE answers with the code of the first test that fails, in R105's order, and 0 when all pass. -/
def Obligations.GeometryChecksInOrder : Prop :=
  ∀ s : State, ∃ t, exec .configure s = .next t ∧
    let tw := s.staged.width.toNat * s.staged.chain.toNat
    let lanes := s.staged.lanesBit.toNat + 1
    let depth := s.staged.scan.toNat
    t.err.toNat =
      if s.staged.width.toNat = 0 ∨ s.staged.chain.toNat = 0 ∨ ¬ 8 ∣ tw ∨ 8191 < tw then 4
      else if depth ∉ [1, 2, 4, 8, 16, 32, 64, 128] then 5
      else if 2 ^ s.cfg.variant.numAddrLines < depth then 6
      else if s.cfg.variant.numDataLines < lanes then 7
      else if s.staged.height.toNat ≠ lanes * depth then 8
      else if s.cfg.fbCapacity < tw / 8 * s.staged.height.toNat then 9
      else 0

/-- R106: CONFIGURE on a staged geometry that passes the checks of R105 does every write of `ConfigApply`: the active geometry,
zero over the used bytes of both banks, roles, row, line direction and levels, `LinesInit`, the timer, and the flags; nothing
else changes, bank bytes from `BUFSZ` up included. -/
def Obligations.ConfigureAppliesStagedGeometry : Prop :=
  ∀ s : State, stagedGeometryGood s →
    ∃ t, exec .configure s = .next t ∧
      t = { s with
        active := ⟨s.staged.width, s.staged.height, s.staged.chain, s.staged.scan, s.staged.lanesBit.setWidth 2 + 1#2⟩,
        mem := t.mem, front := false, row := 0#7, lineEn := true, lines := ⟨false, false, false, false, 0#7⟩,
        trace := s.trace ++ [.linesInit], init := true,
        tickPeriod := BitVec.ofNat 24 (s.cfg.clkHz / s.cfg.defaultTickHz), timerCnt := 0#24, pend := false, tie := true,
        err := 0#4 } ∧
      scanState t = .scanning ∧
      let used := s.staged.width.toNat * s.staged.chain.toNat / 8 * s.staged.height.toNat
      ∀ a, byteAt t a =
        if a < used ∨ (s.cfg.fbCapacity ≤ a ∧ a < s.cfg.fbCapacity + used) then 0#8 else byteAt s a

/-- R107: CONFIGURE on a staged geometry that fails a check of R105 clears `INIT`, `TIE` and `PEND`, writes the code of `CheckGeom`,
and changes nothing else; the engine is idle, and driven lines hold `OE_N` inactive. -/
def Obligations.ConfigureFailureStopsScanning : Prop :=
  ∀ s : State, ¬ stagedGeometryGood s →
    ∃ t, exec .configure s = .next t ∧
      t = { s with init := false, tie := false, pend := false, err := t.err } ∧
      t.err = errNumber (checkGeom s.cfg (stagedDims s.staged)) ∧ 4 ≤ t.err.toNat ∧ scanState t = .idle ∧ (s.lineEn = true → oeN t = .high)

/-! ### Drawing commands -/

/-- R121, R122: on a configured block SETPIXEL writes one byte of the back bank, the byte at `PixAddr`, with the mask bit set or
cleared, when the coordinate is in range, and no byte when it is not; `ERR` becomes 0 and nothing else changes. -/
def Obligations.SetpixelWritesOneByte : Prop :=
  (∀ (s : State) (x y : Int) (on : Bool), s.Inv → s.init = true →
    ∃ t, exec (.setpixel x y on) s = .next t ∧ t = { s with mem := t.mem, err := 0#4 } ∧
      (insidePanel s x y →
        let a := pixAddr s.cfg (activeDims s.active) (!s.front) x y
        let mask := 0x80#8 >>> (x.toNat % 8)
        byteAt t a = (if on then byteAt s a ||| mask else byteAt s a &&& ~~~ mask) ∧
        ∀ b, b ≠ a → byteAt t b = byteAt s b) ∧
      (¬ insidePanel s x y → t.mem = s.mem)) ∧
  (∀ (s : State) (x y : Int) (on : Bool), s.init = false → exec (.setpixel x y on) s = .next { s with err := 2#4 }) ∧
  ∀ w : Word, w &&& 0xF0000000#32 = 0x40000000#32 →
    decode w = .ok (.setpixel (sextX w) (sextY w) (decide (bits w 27 27 = 1)))

/-- R62, R122: after SETPIXEL of a coordinate in range, that pixel of the back bank is `on`, and every other pixel in range of
either bank is what it was: two pixels never share a bit. -/
def Obligations.SetpixelChangesExactlyOnePixel : Prop :=
  ∀ (s : State) (x y : Nat) (on : Bool), s.Inv → s.init = true → insidePanel s x y →
    ∃ t, exec (.setpixel x y on) s = .next t ∧
      ∀ (bank : Bool) (x' y' : Nat), insidePanel s x' y' →
        pixelAt t bank x' y' = if bank = (!s.front) ∧ x' = x ∧ y' = y then on else pixelAt s bank x' y'

/-- R62: the pixel map: byte `k × FB_CAPACITY_BYTES + y × BPR + x/8`, inside the used bytes of bank k, and bit `7 - x mod 8`. -/
def Obligations.PixelMapAddressesAndMasks : Prop :=
  ∀ (s : State) (bank : Bool) (x y : Nat), s.Inv → s.init = true → insidePanel s x y →
    let bpr := s.active.width.toNat * s.active.chain.toNat / 8
    let off := y * bpr + x / 8
    pixAddr s.cfg (activeDims s.active) bank x y = bank.toNat * s.cfg.fbCapacity + off ∧
    off < bpr * s.active.height.toNat ∧ off < s.cfg.fbCapacity ∧
    (pixMask x).toNat = 2 ^ (7 - x % 8) ∧
    pixelAt s bank x y = (byteAt s (bank.toNat * s.cfg.fbCapacity + off)).getLsbD (7 - x % 8)

/-- R128: GETPIXEL on a configured block puts the back bank's pixel into `PIX`, 0 when out of range, clears `ERR` and changes
nothing else; unconfigured it is `NOT_INIT`, `PIX` unchanged. -/
def Obligations.GetpixelReadsBackPixel : Prop :=
  (∀ (s : State) (x y : Int), s.Inv → s.init = true →
    ∃ t, exec (.getpixel x y) s = .next t ∧ t = { s with pix := t.pix, err := 0#4 } ∧
      (insidePanel s x y →
        (t.pix = true ↔
          byteAt s (pixAddr s.cfg (activeDims s.active) (!s.front) x y) &&& (0x80#8 >>> (x.toNat % 8)) ≠ 0#8)) ∧
      (¬ insidePanel s x y → t.pix = false)) ∧
  (∀ (s : State) (x y : Int), s.init = false → exec (.getpixel x y) s = .next { s with err := 2#4 }) ∧
  ∀ w : Word, w &&& 0xF8000000#32 = 0xA0000000#32 → decode w = .ok (.getpixel (sextX w) (sextY w))

/-- Headline, R127: SETPIXEL of a coordinate in range, then any number of timer expiries, ticks and block clocks in any order,
then GETPIXEL of the same coordinate: `PIX` is the value that was drawn. Out of range, SETPIXEL leaves both banks unchanged. -/
def Obligations.SetpixelThenGetpixelAcrossTicks : Prop :=
  (∀ (s : State) (x y : Int) (on : Bool) (between : List Input), s.Inv → s.init = true → insidePanel s x y →
    (∀ i ∈ between, ofTheBlock i) →
    ∃ t u v, exec (.setpixel x y on) s = .next t ∧
      runSteps between.length { t with agenda := between } = .next u ∧
      exec (.getpixel x y) u = .next v ∧ v.pix = on ∧ v.err = 0#4) ∧
  ∀ (s : State) (x y : Int) (on : Bool), s.init = true → ¬ insidePanel s x y →
    ∃ t, exec (.setpixel x y on) s = .next t ∧ t.mem = s.mem

/-- R124: FILL on a configured block makes every used byte of the back bank 0xFF or 0x00, every pixel in range `on`, and leaves
every other byte; `ERR` becomes 0 and nothing else changes; applied again it leaves the same state; unconfigured it is `NOT_INIT`. -/
def Obligations.FillWritesBackBank : Prop :=
  (∀ (s : State) (on : Bool), s.Inv → s.init = true →
    ∃ t, exec (.fill on) s = .next t ∧ t = { s with mem := t.mem, err := 0#4 } ∧
      (∀ a, byteAt t a =
        if InBank s.cfg (activeDims s.active) (!s.front) a then (if on then 0xFF#8 else 0x00#8) else byteAt s a) ∧
      (∀ x y : Nat, insidePanel s x y → pixelAt t (!s.front) x y = on) ∧ exec (.fill on) t = .next t) ∧
  (∀ (s : State) (on : Bool), s.init = false → exec (.fill on) s = .next { s with err := 2#4 }) ∧
  ∀ w : Word, w &&& 0xFFFFFFFE#32 = 0x50000000#32 → decode w = .ok (.fill (decide (bits w 0 0 = 1)))

/-- R126: CLEAR is `FILL 0`, the word 0x50000000: every used back byte becomes 0x00 and `ERR` 0; and from every state a second
CLEAR (or a second FILL of one value) leaves the very same state as one. -/
def Obligations.ClearTwiceIsClearOnce : Prop :=
  expandOp .clear = [.fill false] ∧ assembleOp .clear = .ok [0x50000000#32] ∧
  (∀ s : State, s.Inv → s.init = true → ∃ t, exec (.fill false) s = .next t ∧ t.err = 0#4 ∧
    ∀ a, InBank s.cfg (activeDims s.active) (!s.front) a → byteAt t a = 0x00#8) ∧
  ∀ (s t : State) (on : Bool), exec (.fill on) s = .next t → exec (.fill on) t = .next t

/-- R221: SETPIXEL, FILL, GETPIXEL and SWAP while `INIT = 0` write `ERR <- 2` and have no other effect. -/
def Obligations.DrawingBeforeConfigurationFails : Prop :=
  ∀ (s : State) (i : Instr), s.init = false → i.mnemonic ∈ ["SETPIXEL", "FILL", "GETPIXEL", "SWAP"] →
    exec i s = .next { s with err := 2#4 }

/-- R120, R123: a drawing command never writes a byte of the front bank, so the next tick shows the same events. -/
def Obligations.DrawingNeverReachesFrontBank : Prop :=
  ∀ (s : State) (i : Instr), s.Inv → i.mnemonic ∈ ["SETPIXEL", "FILL", "GETPIXEL"] →
    ∃ t, exec i s = .next t ∧
      (s.init = true → ∀ a, InBank s.cfg (activeDims s.active) s.front a → byteAt t a = byteAt s a) ∧
      (s.init = true → tickEvents t = tickEvents s)

/-! ### SWAP -/

/-- R141, R143, R144: SWAP on a configured block inverts `FRONT`; with copy the new back bank's used bytes become the new front
bank's, without it no byte changes; every other byte stays; `ERR` becomes 0 and nothing else changes; unconfigured it is
`NOT_INIT`. -/
def Obligations.SwapExchangesAndCopies : Prop :=
  (∀ (s : State) (copy : Bool), s.Inv → s.init = true →
    ∃ t, exec (.swap copy) s = .next t ∧ t = { s with mem := t.mem, front := !s.front, err := 0#4 } ∧
      (copy = false → t.mem = s.mem) ∧
      (copy = true →
        (∀ o, o < bufferSize (activeDims s.active) →
          byteAt t (bankBase s.cfg s.front + o) = byteAt s (bankBase s.cfg (!s.front) + o)) ∧
        ∀ a, ¬ InBank s.cfg (activeDims s.active) s.front a → byteAt t a = byteAt s a)) ∧
  (∀ (s : State) (copy : Bool), s.init = false → exec (.swap copy) s = .next { s with err := 2#4 }) ∧
  ∀ w : Word, w &&& 0xFFFFFFFE#32 = 0x70000000#32 → decode w = .ok (.swap (decide (bits w 0 0 = 1)))

/-- R142, R145: after SWAP the tick shows the bank that was drawn into, pixel for pixel; after `SWAP 1` the banks show the same
pixels, and another `SWAP 1` changes nothing of what a tick shows; `SWAP 0` twice restores the state but for `ERR`. -/
def Obligations.SwapShowsTheDrawnImage : Prop :=
  ∀ s : State, s.Inv → s.init = true →
    (∀ copy, ∃ t, exec (.swap copy) s = .next t ∧
      tickEvents t = tickEvents { s with front := !s.front } ∧
      ∀ x y : Nat, insidePanel s x y →
        pixelAt t t.front x y = pixelAt s (!s.front) x y ∧
        pixelAt t (!t.front) x y = if copy then pixelAt s (!s.front) x y else pixelAt s s.front x y) ∧
    (∃ t u, exec (.swap true) s = .next t ∧ exec (.swap true) t = .next u ∧ tickEvents u = tickEvents t) ∧
    ∃ t, exec (.swap false) s = .next t ∧ exec (.swap false) t = .next { s with err := 0#4 }

/-! ### Brightness -/

/-- R183: SETBRIGHT stores the value, programs the duty of the lookup, clears `ERR` and changes nothing else, in every state (the
write of `DUTY` is recorded as R18's observation); with an accepted table 0 gives the maximum-off duty and a dark panel and 255
the least duty; the value already held changes nothing but `ERR`. -/
def Obligations.SetbrightProgramsDuty : Prop :=
  (∀ (s : State) (value : BitVec 8),
    exec (.setbright value.toNat) s = .next { s with
      bright := value, duty := s.cfg.gamma value, err := 0#4, dutyWrites := s.dutyWrites ++ [s.cfg.gamma value] }) ∧
  (∀ s : State, s.cfg.Valid → ∃ z m, exec (.setbright 0) s = .next z ∧ exec (.setbright 255) s = .next m ∧
    z.duty = 255#8 ∧ (s.lineEn = true → panelLit z = some 0) ∧ ∀ v, m.duty ≤ s.cfg.gamma v) ∧
  (∀ s : State, s.Inv → exec (.setbright s.bright.toNat) s = .next { s with
    err := 0#4, dutyWrites := s.dutyWrites ++ [s.duty] }) ∧
  ∀ w : Word, w &&& 0xFFFFFF00#32 = 0x60000000#32 → decode w = .ok (.setbright (bits w 7 0))

/-- R181, R187: with an accepted table, a higher brightness never programs a longer off-time and never lights fewer steps of a
PWM period, brightness 0 is the maximum-off duty and dark, and 255 programs the table's minimum. -/
def Obligations.BrighterIsNeverDarker : Prop :=
  ∀ (s : State) (v w : BitVec 8), s.cfg.Valid → v ≤ w →
    ∃ t u z m, exec (.setbright v.toNat) s = .next t ∧ exec (.setbright w.toNat) s = .next u ∧
      exec (.setbright 0) s = .next z ∧ exec (.setbright 255) s = .next m ∧
      u.duty ≤ t.duty ∧ litSteps t.duty ≤ litSteps u.duty ∧ z.duty = 255#8 ∧ litSteps z.duty = 0 ∧ m.duty ≤ t.duty ∧
      (s.lineEn = true → panelLit z = some 0)

/-! ### START, STOP, the timer -/

/-- R151, R152: START with a valid frequency programs `floor(CLK_HZ / f)`, restarts the count, drops a pending tick, enables
ticks and clears `ERR`; otherwise it is `BAD_FREQ`; nothing else changes. -/
def Obligations.StartProgramsTimer : Prop :=
  (∀ (s : State) (freq : Nat), freq ≤ 1048575 →
    (1 ≤ freq ∧ 1 ≤ s.cfg.clkHz / freq ∧ s.cfg.clkHz / freq ≤ 16777215 →
      ∃ t, exec (.start freq) s = .next t ∧
        t = { s with tickPeriod := t.tickPeriod, timerCnt := 0#24, pend := false, tie := true, err := 0#4 } ∧
        t.tickPeriod.toNat = s.cfg.clkHz / freq) ∧
    (¬ (1 ≤ freq ∧ 1 ≤ s.cfg.clkHz / freq ∧ s.cfg.clkHz / freq ≤ 16777215) →
      exec (.start freq) s = .next { s with err := 3#4 })) ∧
  ∀ w : Word, w &&& 0xFFF00000#32 = 0x80000000#32 → decode w = .ok (.start (bits w 19 0))

/-- R153: STOP is the word 0x90000000 exactly; in every state it clears `TIE`, `PEND` and `ERR` and changes nothing else. -/
def Obligations.StopDisablesTicks : Prop :=
  (∀ s : State, exec .stop s = .next { s with tie := false, pend := false, err := 0#4 }) ∧
  decode 0x90000000#32 = .ok .stop ∧ ∀ w : Word, decode w = .ok .stop → w = 0x90000000#32

/-- R154: after STOP no timer expiry, tick or block clock, in any number and order, shows anything on the lines, advances the row
or requests a tick. -/
def Obligations.StopPreventsLaterTicks : Prop :=
  ∀ (s : State) (later : List Input), (∀ i ∈ later, ofTheBlock i) →
    ∃ t u, exec .stop s = .next t ∧ runSteps later.length { t with agenda := later } = .next u ∧
      u.trace = s.trace ∧ u.row = s.row ∧ u.lines = s.lines ∧ u.duty = s.duty ∧ u.tie = false ∧ u.pend = false ∧
      u.mem = s.mem

/-- R43, R150: the scan engine's states: a successful CONFIGURE and a valid START of a configured block enter `Scanning`, STOP
and a failed CONFIGURE enter `Idle`, and none of START, STOP and a failed CONFIGURE changes the banks. -/
def Obligations.ScanStateFollowsCommands : Prop :=
  ∀ s : State,
    (scanState s = .scanning ↔ s.init = true ∧ s.tie = true) ∧
    (∃ t, exec .configure s = .next t ∧ (stagedGeometryGood s → scanState t = .scanning) ∧
      (¬ stagedGeometryGood s → scanState t = .idle ∧ t.mem = s.mem)) ∧
    (∃ t, exec .stop s = .next t ∧ scanState t = .idle ∧ t.mem = s.mem) ∧
    ∀ freq, freqValid s.cfg freq = true →
      ∃ t, exec (.start freq) s = .next t ∧ t.mem = s.mem ∧ (s.init = true → scanState t = .scanning)

/-- R156, R157: a block clock. While `TIE = 1` the count goes up by 1, or back to 0 with `PEND <- 1` when it reaches the period;
while `TIE = 0` it holds, and under the invariant `PEND` stays 0; apart from the PWM counter nothing else changes. -/
def Obligations.TimerCountsWhileEnabled : Prop :=
  ∀ (s : State) (rest : List Input), s.agenda = .clock :: rest →
    ∃ t, step s = .next t ∧
      t = { s with agenda := rest, timerCnt := t.timerCnt, pend := t.pend, pwmCnt := t.pwmCnt, pwmPhase := t.pwmPhase } ∧
      (s.tie = true → s.tickPeriod.toNat ≤ s.timerCnt.toNat + 1 → t.timerCnt = 0#24 ∧ t.pend = true) ∧
      (s.tie = true → s.timerCnt.toNat + 1 < s.tickPeriod.toNat →
        t.timerCnt.toNat = s.timerCnt.toNat + 1 ∧ t.pend = s.pend) ∧
      (s.tie = false → t.timerCnt = s.timerCnt ∧ t.pend = s.pend ∧ (s.Inv → t.pend = false))

/-- R157, R158: `Expire` sets `PEND` while `TIE = 1`, is lost when `PEND` is 1 already, does nothing while `TIE = 0`, and changes
nothing else; so two expiries give one tick. -/
def Obligations.ExpiryWhilePendingIsLost : Prop :=
  ∀ (s : State) (rest : List Input), s.agenda = .expire :: rest →
    step s = .next { s with agenda := rest, pend := s.pend || s.tie } ∧
    (s.pend = true → step s = .next { s with agenda := rest })

/-- R36: over `PWM_PRESCALE` block clocks that begin at a step of the PWM counter, the counter advances by 1 modulo 2^8, in every
state of the block (the phase of the prescaler is the model's own register, log 6). -/
def Obligations.PwmCounterAdvancesEveryPrescale : Prop :=
  ∀ (s : State) (rest : List Input), s.cfg.Valid → s.pwmPhase = 0 →
    s.agenda = List.replicate s.cfg.pwmPrescale Input.clock ++ rest →
    ∃ t, runSteps s.cfg.pwmPrescale s = .next t ∧ t.agenda = rest ∧ t.pwmPhase = 0 ∧ t.pwmCnt = s.pwmCnt + 1#8

/-- Headline, bounded liveness (R157, R159; the order of a block alone is log 4): a scanning block that the outside leaves alone
requests a tick within one tick period and serves it in the next step, and the row advances by one modulo `S`. -/
def Obligations.TickComesWithinOnePeriod : Prop :=
  ∀ s : State, s.Inv → s.init = true → s.tie = true → s.pend = false → s.agenda = [] →
    ∃ n t u, n ≤ s.tickPeriod.toNat ∧ runSteps n s = .next t ∧ t.pend = true ∧ t.row = s.row ∧ t.trace = s.trace ∧
      step t = .next u ∧ u.pend = false ∧ u.row.toNat = (s.row.toNat + 1) % s.active.scan.toNat ∧
      u.trace = s.trace ++ tickEvents s

/-! ### The tick -/

/-- R160-R166: a tick of a configured block, served by the scan engine's turn: `PEND <- 0`; the trace gets the blanking duty, the
row group's columns from the front bank on one or two lanes (left to right, one clock pulse each), the address and the latch
pulses in the variant's order, and the restored duty; the lines follow; `SNAP` and `DUTY` hold the duty from before; `ROW`
advances modulo `S`; nothing else changes, no byte of memory among it. -/
def Obligations.TickShiftsAddressesLatches : Prop :=
  ∀ (s : State) (rest : List Input), s.Inv → s.init = true → s.pend = true → s.agenda = .tick :: rest →
    ∃ t, step s = .next t ∧
      t = { s with
        agenda := rest, pend := false, snap := s.duty, row := t.row,
        lines := linesAfter (rowEvents s s.row.toNat ++ addressAndLatch s.row s) s.lines,
        trace := s.trace ++ ([.duty 255#8] ++ rowEvents s s.row.toNat ++ addressAndLatch s.row s ++ [.duty s.duty]),
        dutyWrites := s.dutyWrites ++ [255#8, s.duty] } ∧
      t.row.toNat = (s.row.toNat + 1) % s.active.scan.toNat ∧
      let address : LineEvent := .addr s.row (Nat.log2 s.active.scan.toNat)
      let pulse : List LineEvent := [.lat true, .lat false]
      let pulses := if s.cfg.variant.latchPulses = 2 then pulse ++ pulse else pulse
      addressAndLatch s.row s =
        if s.cfg.variant.addrBeforeLatch then address :: pulses else pulses ++ [address]

/-- R160: a tick with `INIT = 0` emits no event and changes nothing but `PEND`; a turn of the scan engine with `PEND = 0` or
`TIE = 0` changes nothing (R159). -/
def Obligations.TickWithoutConfigurationDoesNothing : Prop :=
  ∀ (s : State) (rest : List Input), s.agenda = .tick :: rest →
    (s.init = false → s.pend = true → s.tie = true → step s = .next { s with agenda := rest, pend := false }) ∧
    (s.pend = false ∨ s.tie = false → step s = .next { s with agenda := rest })

/-- R167, R168: a tick of a configured block emits `24 × BPR + 2 × LATCH_PULSES + 3` events: the blanking duty first, then the
shifting, which holds no latch or address event, then the address and the latch pulses, then the restoring duty last. -/
def Obligations.TickEventCountAndOrder : Prop :=
  ∀ (s : State) (rest : List Input), s.Inv → s.init = true → s.pend = true → s.agenda = .tick :: rest →
    ∃ t shifted after, step s = .next t ∧
      t.trace = s.trace ++ .duty 255#8 :: (shifted ++ after) ++ [.duty s.duty] ∧
      t.trace.length = s.trace.length + (24 * (s.active.width.toNat * s.active.chain.toNat / 8) +
        2 * s.cfg.variant.latchPulses + 3) ∧
      shifted.length = 24 * (s.active.width.toNat * s.active.chain.toNat / 8) ∧
      (∀ e ∈ shifted, (∃ d, e = .data d) ∨ (∃ d q, e = .data2 d q) ∨ ∃ v, e = .clk v) ∧
      (∀ e ∈ after, (∃ v, e = .lat v) ∨ ∃ a n, e = .addr a n) ∧ t.mem = s.mem

/-- R61, R168: a tick depends on the front bank's bytes only: two states that differ in other bytes of memory make the same step,
but for those bytes. -/
def Obligations.TickDependsOnlyOnFrontBank : Prop :=
  ∀ (s : State) (other : Memory) (rest : List Input), s.Inv → State.Inv { s with mem := other } →
    (s.init = true → ∀ a, InBank s.cfg (activeDims s.active) s.front a →
      byteAt { s with mem := other } a = byteAt s a) →
    s.agenda = .tick :: rest →
    ∃ t, step s = .next t ∧ t.mem = s.mem ∧ step { s with mem := other } = .next { t with mem := other }

/-- Headline, R169: S consecutive ticks of a scanning block show row groups `r0, r0 + 1, ...` modulo `S`, each exactly once and in
that order, and `ROW` is `r0` again. -/
def Obligations.FrameShowsEveryRowOnce : Prop :=
  ∀ (s : State) (rest : List Input), s.Inv → s.init = true → s.tie = true →
    s.agenda = ticks s.active.scan.toNat ++ rest →
    ∃ t, runSteps (2 * s.active.scan.toNat) s = .next t ∧ t.agenda = rest ∧ t.row = s.row ∧ t.mem = s.mem ∧
      t.duty = s.duty ∧ t.err = s.err ∧
      t.trace = s.trace ++ (List.range s.active.scan.toNat).flatMap fun k =>
        tickEvents { s with row := BitVec.ofNat 7 ((s.row.toNat + k) % s.active.scan.toNat) }

/-- R207: after a tick of a configured block `CLK` and `LAT` are 0, the address lines hold the row it addressed and 0 above
`ABITS`, `DATA0` holds the last column of that row, `DATA1` in dual-lane mode that of the row `S` below and else its old level,
and the duty is the lookup's. -/
def Obligations.LinesBetweenTicks : Prop :=
  ∀ (s : State) (rest : List Input), s.Inv → s.init = true → s.pend = true → s.agenda = .tick :: rest →
    ∃ t, step s = .next t ∧ t.lines.clk = false ∧ t.lines.lat = false ∧ t.lines.addr = s.row ∧
      t.lines.data0 = pixelAt s s.front (s.active.width.toNat * s.active.chain.toNat - 1) s.row.toNat ∧
      t.lines.data1 = (if s.active.lanes = 2#2 then
        pixelAt s s.front (s.active.width.toNat * s.active.chain.toNat - 1) (s.row.toNat + s.active.scan.toNat)
        else s.lines.data1) ∧
      t.duty = s.cfg.gamma s.bright ∧ t.lineEn = true

/-- R159, R225: with nothing offered from outside, the block makes the scan engine's turn when a tick is pending and enabled, and
otherwise lets a block clock pass (the model's rule for a block alone, log 4). -/
def Obligations.BlockAloneServesPendingTickFirst : Prop :=
  ∀ s : State, s.agenda = [] →
    (s.pend = true → s.tie = true → step s = step { s with agenda := [.tick] }) ∧
    (s.pend = false ∨ s.tie = false → step s = step { s with agenda := [.clock] })

/-! ### The output enable -/

/-- R186: `OE_N` is high-impedance while `LINE_EN = 0`, 1 while driven and unconfigured, and else 1 exactly while
`PWM_CNT ≤ DUTY`. -/
def Obligations.OutputEnableFunction : Prop :=
  ∀ s : State,
    (s.lineEn = false → oeN s = .z) ∧
    (s.lineEn = true → s.init = false → oeN s = .high) ∧
    (s.lineEn = true → s.init = true → s.pwmCnt ≤ s.duty → oeN s = .high) ∧
    (s.lineEn = true → s.init = true → s.duty < s.pwmCnt → oeN s = .low)

/-- R37, with the lines of R200 and R38: while `LINE_EN = 0` every panel line that is there is high-impedance; while it is 1 each
is driven, `OE_N` as R186 says and the others at their level registers; `DATA1` is there only with two data lines, and `ADDR[k]`
only for the address lines that are wired. A successful CONFIGURE sets `LINE_EN`, no step but a CONFIGURE sets it, no step but the
reset input clears it, and reset clears it. -/
def Obligations.PanelLinesFollowLineEnable : Prop :=
  (∀ s : State, s.lineEn = false →
    oeN s = .z ∧ data0Line s = .z ∧ clkLine s = .z ∧ latLine s = .z ∧ (∀ v, data1Line s = some v → v = .z) ∧
    ∀ k v, addrLine s k = some v → v = .z) ∧
  (∀ s : State, s.lineEn = true →
    oeN s = (if s.init = true ∧ s.duty < s.pwmCnt then .low else .high) ∧
    data0Line s = drivenAt s.lines.data0 ∧ clkLine s = drivenAt s.lines.clk ∧ latLine s = drivenAt s.lines.lat ∧
    (s.cfg.variant.numDataLines = 2 → data1Line s = some (drivenAt s.lines.data1)) ∧
    ∀ k < s.cfg.variant.numAddrLines, addrLine s k = some (drivenAt (s.lines.addr.getLsbD k))) ∧
  (∀ s : State, (s.cfg.variant.numDataLines ≠ 2 → data1Line s = none) ∧
    ∀ k, s.cfg.variant.numAddrLines ≤ k → addrLine s k = none) ∧
  (∀ s : State, stagedGeometryGood s → ∃ t, exec .configure s = .next t ∧ t.lineEn = true) ∧
  (∀ s t : State, step s = .next t → s.lineEn = false → t.lineEn = true →
    ∃ rest, s.agenda = .bus (.write 0#3 4 0x30000000#32) :: rest) ∧
  (∀ s t : State, step s = .next t → s.lineEn = true → t.lineEn = false → ∃ rest, s.agenda = .reset :: rest) ∧
  State.reset.lineEn = false ∧
  ∀ (s t : State) (rest : List Input), s.agenda = .reset :: rest → step s = .next t → t.lineEn = false

/-- R185, R187: within one PWM period of a driven, configured block output enable is active for `255 - DUTY` of the 256 steps,
never with the maximum-off duty. -/
def Obligations.LitStepsOfAPwmPeriod : Prop :=
  ∀ s : State, s.lineEn = true → s.init = true →
    (List.range 256).countP (fun c => oeN { s with pwmCnt := BitVec.ofNat 8 c } == .low) = 255 - s.duty.toNat ∧
    panelLit s = some (255 - s.duty.toNat) ∧
    (s.duty = 255#8 → ∀ c, oeN { s with pwmCnt := c } = .high)

/-! ### Whole-machine rules -/

/-- R28, R29, R31, R32, R35, R37, R38, R45, R140, R205: which command writes which register, over every command and state: every
other command leaves it. -/
def Obligations.CommandsWriteOnlyTheirRegisters : Prop :=
  ∀ (s t : State) (i : Instr), exec i s = .next t →
    (t.init ≠ s.init → i = .configure) ∧
    (t.tie ≠ s.tie → i = .configure ∨ i = .stop ∨ ∃ f, i = .start f) ∧
    (t.pend ≠ s.pend → i = .configure ∨ i = .stop ∨ ∃ f, i = .start f) ∧
    (t.row ≠ s.row → i = .configure ∧ t.init = true) ∧
    (t.front ≠ s.front → (∃ c, i = .swap c) ∨ (i = .configure ∧ t.init = true)) ∧
    (t.bright ≠ s.bright → ∃ v, i = .setbright v) ∧
    (t.pix ≠ s.pix → ∃ x y, i = .getpixel x y) ∧
    (t.staged ≠ s.staged → (∃ w h, i = .setgeom0 w h) ∨ ∃ c d l, i = .setgeom1 c d l) ∧
    (t.active ≠ s.active → i = .configure ∧ t.init = true) ∧
    (t.lineEn ≠ s.lineEn → i = .configure ∧ t.lineEn = true) ∧
    (t.lines ≠ s.lines → i = .configure ∧ t.init = true) ∧
    (t.duty ≠ s.duty → ∃ v, i = .setbright v) ∧
    (t.dutyWrites ≠ s.dutyWrites → ∃ v, i = .setbright v) ∧
    (t.tickPeriod ≠ s.tickPeriod → (i = .configure ∧ t.init = true) ∨ ∃ f, i = .start f) ∧
    (t.timerCnt ≠ s.timerCnt → (i = .configure ∧ t.init = true) ∨ ∃ f, i = .start f) ∧
    (t.trace ≠ s.trace → i = .configure ∧ t.init = true) ∧
    (t.mem ≠ s.mem → i = .configure ∨ (∃ x y o, i = .setpixel x y o) ∨ (∃ o, i = .fill o) ∨ i = .swap true) ∧
    t.snap = s.snap ∧ t.pwmCnt = s.pwmCnt ∧ t.pwmPhase = s.pwmPhase ∧ t.epoch = s.epoch ∧ t.busReads = s.busReads ∧ t.agenda = s.agenda ∧
    t.err.toNat ≤ 9

/-- R25, R29, R31, R37, R45, R61, R165: a step that is neither a write of the bus nor the reset input writes no register that
commands own, no byte of the banks, and `ROW` only as a tick of a configured block; a tick gives `DUTY` its value back. -/
def Obligations.OtherStepsKeepCommandRegisters : Prop :=
  ∀ s t : State, step s = .next t →
    (∀ rest, s.agenda ≠ .reset :: rest) → (∀ o n d rest, s.agenda ≠ .bus (.write o n d) :: rest) →
    t.init = s.init ∧ t.tie = s.tie ∧ t.front = s.front ∧ t.err = s.err ∧ t.pix = s.pix ∧ t.bright = s.bright ∧
    t.staged = s.staged ∧ t.active = s.active ∧ t.tickPeriod = s.tickPeriod ∧ t.lineEn = s.lineEn ∧ t.duty = s.duty ∧
    t.mem = s.mem ∧ t.epoch = s.epoch ∧
    (t.row ≠ s.row → s.init = true ∧ s.pend = true ∧ t.pend = false)

/-- R182, R201: no step changes a parameter, `GAMMA_LUT` and the variant flags among them. -/
def Obligations.ParametersNeverChange : Prop :=
  ∀ s t : State, step s = .next t → t.cfg = s.cfg

/-- R71, R264: a STATUS read offered right after a command returns the state that the command left. -/
def Obligations.StatusReadSeesTheCommandBeforeIt : Prop :=
  ∀ (s t : State) (w : Word) (rest : List Input), commandStep w { s with agenda := .bus (.read 4#3 4) :: rest } = .next t →
    ∃ u, step t = .next u ∧ u = { t with agenda := rest, busReads := t.busReads ++ [statusWord t] }

/-! ### The assembler -/

/-- R88, R89: the assembler emits the words of an operation's expansion exactly when every operand is in its range, and those
words decode to the expansion; otherwise it emits no word. -/
def Obligations.AssemblerEmitsOrRefuses : Prop :=
  ∀ op : AsmOp,
    ((∀ i ∈ expandOp op, i.wellFormed = true) →
      ∃ ws, assembleOp op = .ok ws ∧ ws.length = (expandOp op).length ∧
        ∀ k (h : k < ws.length) (h' : k < (expandOp op).length), decode ws[k] = .ok (expandOp op)[k]) ∧
    ((∃ i ∈ expandOp op, i.wellFormed = false) → assembleOp op = .error .outOfRange) ∧
    expandOp .clear = [.fill false] ∧ assembleOp .clear = .ok [0x50000000#32] ∧ (∀ x y, expandOp (.clrpixel x y) = [.setpixel x y false]) ∧
    ∀ w h c d l, expandOp (.begin_ w h c d l) = [.setgeom0 w h, .setgeom1 c d l, .configure]
end

