-- ==== Sys2Proof/Laws/State.lean ====
section
/-! SUPPORT. What each named update of the state leaves in each field, so that no proof unfolds a record update. -/

namespace Sys2Proof.Machine

/-! ### succeed -/

@[simp] theorem succeed_init (s : State) : (succeed s).init = s.init := rfl
@[simp] theorem succeed_tie (s : State) : (succeed s).tie = s.tie := rfl
@[simp] theorem succeed_pend (s : State) : (succeed s).pend = s.pend := rfl
@[simp] theorem succeed_row (s : State) : (succeed s).row = s.row := rfl
@[simp] theorem succeed_front (s : State) : (succeed s).front = s.front := rfl
@[simp] theorem succeed_bright (s : State) : (succeed s).bright = s.bright := rfl
@[simp] theorem succeed_duty (s : State) : (succeed s).duty = s.duty := rfl
@[simp] theorem succeed_snap (s : State) : (succeed s).snap = s.snap := rfl
@[simp] theorem succeed_err (s : State) : (succeed s).err = errNumber .ok := rfl
@[simp] theorem succeed_pix (s : State) : (succeed s).pix = s.pix := rfl
@[simp] theorem succeed_staged (s : State) : (succeed s).staged = s.staged := rfl
@[simp] theorem succeed_active (s : State) : (succeed s).active = s.active := rfl
@[simp] theorem succeed_tickPeriod (s : State) : (succeed s).tickPeriod = s.tickPeriod := rfl
@[simp] theorem succeed_timerCnt (s : State) : (succeed s).timerCnt = s.timerCnt := rfl
@[simp] theorem succeed_pwmCnt (s : State) : (succeed s).pwmCnt = s.pwmCnt := rfl
@[simp] theorem succeed_lineEn (s : State) : (succeed s).lineEn = s.lineEn := rfl
@[simp] theorem succeed_lines (s : State) : (succeed s).lines = s.lines := rfl
@[simp] theorem succeed_mem (s : State) : (succeed s).mem = s.mem := rfl
@[simp] theorem succeed_cfg (s : State) : (succeed s).cfg = s.cfg := rfl
@[simp] theorem succeed_epoch (s : State) : (succeed s).epoch = s.epoch := rfl
@[simp] theorem succeed_pwmPhase (s : State) : (succeed s).pwmPhase = s.pwmPhase := rfl
@[simp] theorem succeed_trace (s : State) : (succeed s).trace = s.trace := rfl
@[simp] theorem succeed_dutyWrites (s : State) : (succeed s).dutyWrites = s.dutyWrites := rfl
@[simp] theorem succeed_busReads (s : State) : (succeed s).busReads = s.busReads := rfl
@[simp] theorem succeed_agenda (s : State) : (succeed s).agenda = s.agenda := rfl

/-! ### raiseCmdError -/

@[simp] theorem raiseCmdError_init (c : ErrCode) (s : State) : (raiseCmdError c s).init = s.init := rfl
@[simp] theorem raiseCmdError_tie (c : ErrCode) (s : State) : (raiseCmdError c s).tie = s.tie := rfl
@[simp] theorem raiseCmdError_pend (c : ErrCode) (s : State) : (raiseCmdError c s).pend = s.pend := rfl
@[simp] theorem raiseCmdError_row (c : ErrCode) (s : State) : (raiseCmdError c s).row = s.row := rfl
@[simp] theorem raiseCmdError_front (c : ErrCode) (s : State) : (raiseCmdError c s).front = s.front := rfl
@[simp] theorem raiseCmdError_bright (c : ErrCode) (s : State) : (raiseCmdError c s).bright = s.bright := rfl
@[simp] theorem raiseCmdError_duty (c : ErrCode) (s : State) : (raiseCmdError c s).duty = s.duty := rfl
@[simp] theorem raiseCmdError_snap (c : ErrCode) (s : State) : (raiseCmdError c s).snap = s.snap := rfl
@[simp] theorem raiseCmdError_err (c : ErrCode) (s : State) : (raiseCmdError c s).err = errNumber c := rfl
@[simp] theorem raiseCmdError_pix (c : ErrCode) (s : State) : (raiseCmdError c s).pix = s.pix := rfl
@[simp] theorem raiseCmdError_staged (c : ErrCode) (s : State) : (raiseCmdError c s).staged = s.staged := rfl
@[simp] theorem raiseCmdError_active (c : ErrCode) (s : State) : (raiseCmdError c s).active = s.active := rfl
@[simp] theorem raiseCmdError_tickPeriod (c : ErrCode) (s : State) : (raiseCmdError c s).tickPeriod = s.tickPeriod := rfl
@[simp] theorem raiseCmdError_timerCnt (c : ErrCode) (s : State) : (raiseCmdError c s).timerCnt = s.timerCnt := rfl
@[simp] theorem raiseCmdError_pwmCnt (c : ErrCode) (s : State) : (raiseCmdError c s).pwmCnt = s.pwmCnt := rfl
@[simp] theorem raiseCmdError_lineEn (c : ErrCode) (s : State) : (raiseCmdError c s).lineEn = s.lineEn := rfl
@[simp] theorem raiseCmdError_lines (c : ErrCode) (s : State) : (raiseCmdError c s).lines = s.lines := rfl
@[simp] theorem raiseCmdError_mem (c : ErrCode) (s : State) : (raiseCmdError c s).mem = s.mem := rfl
@[simp] theorem raiseCmdError_cfg (c : ErrCode) (s : State) : (raiseCmdError c s).cfg = s.cfg := rfl
@[simp] theorem raiseCmdError_epoch (c : ErrCode) (s : State) : (raiseCmdError c s).epoch = s.epoch := rfl
@[simp] theorem raiseCmdError_pwmPhase (c : ErrCode) (s : State) : (raiseCmdError c s).pwmPhase = s.pwmPhase := rfl
@[simp] theorem raiseCmdError_trace (c : ErrCode) (s : State) : (raiseCmdError c s).trace = s.trace := rfl
@[simp] theorem raiseCmdError_dutyWrites (c : ErrCode) (s : State) : (raiseCmdError c s).dutyWrites = s.dutyWrites := rfl
@[simp] theorem raiseCmdError_busReads (c : ErrCode) (s : State) : (raiseCmdError c s).busReads = s.busReads := rfl
@[simp] theorem raiseCmdError_agenda (c : ErrCode) (s : State) : (raiseCmdError c s).agenda = s.agenda := rfl

/-! ### exchangeRoles -/

@[simp] theorem exchangeRoles_init (s : State) : (exchangeRoles s).init = s.init := rfl
@[simp] theorem exchangeRoles_tie (s : State) : (exchangeRoles s).tie = s.tie := rfl
@[simp] theorem exchangeRoles_pend (s : State) : (exchangeRoles s).pend = s.pend := rfl
@[simp] theorem exchangeRoles_row (s : State) : (exchangeRoles s).row = s.row := rfl
@[simp] theorem exchangeRoles_front (s : State) : (exchangeRoles s).front = !s.front := rfl
@[simp] theorem exchangeRoles_bright (s : State) : (exchangeRoles s).bright = s.bright := rfl
@[simp] theorem exchangeRoles_duty (s : State) : (exchangeRoles s).duty = s.duty := rfl
@[simp] theorem exchangeRoles_snap (s : State) : (exchangeRoles s).snap = s.snap := rfl
@[simp] theorem exchangeRoles_err (s : State) : (exchangeRoles s).err = s.err := rfl
@[simp] theorem exchangeRoles_pix (s : State) : (exchangeRoles s).pix = s.pix := rfl
@[simp] theorem exchangeRoles_staged (s : State) : (exchangeRoles s).staged = s.staged := rfl
@[simp] theorem exchangeRoles_active (s : State) : (exchangeRoles s).active = s.active := rfl
@[simp] theorem exchangeRoles_tickPeriod (s : State) : (exchangeRoles s).tickPeriod = s.tickPeriod := rfl
@[simp] theorem exchangeRoles_timerCnt (s : State) : (exchangeRoles s).timerCnt = s.timerCnt := rfl
@[simp] theorem exchangeRoles_pwmCnt (s : State) : (exchangeRoles s).pwmCnt = s.pwmCnt := rfl
@[simp] theorem exchangeRoles_lineEn (s : State) : (exchangeRoles s).lineEn = s.lineEn := rfl
@[simp] theorem exchangeRoles_lines (s : State) : (exchangeRoles s).lines = s.lines := rfl
@[simp] theorem exchangeRoles_mem (s : State) : (exchangeRoles s).mem = s.mem := rfl
@[simp] theorem exchangeRoles_cfg (s : State) : (exchangeRoles s).cfg = s.cfg := rfl
@[simp] theorem exchangeRoles_epoch (s : State) : (exchangeRoles s).epoch = s.epoch := rfl
@[simp] theorem exchangeRoles_pwmPhase (s : State) : (exchangeRoles s).pwmPhase = s.pwmPhase := rfl
@[simp] theorem exchangeRoles_trace (s : State) : (exchangeRoles s).trace = s.trace := rfl
@[simp] theorem exchangeRoles_dutyWrites (s : State) : (exchangeRoles s).dutyWrites = s.dutyWrites := rfl
@[simp] theorem exchangeRoles_busReads (s : State) : (exchangeRoles s).busReads = s.busReads := rfl
@[simp] theorem exchangeRoles_agenda (s : State) : (exchangeRoles s).agenda = s.agenda := rfl

/-! ### tickAdvance -/

@[simp] theorem tickAdvance_init (r : BitVec 7) (s : State) : (tickAdvance r s).init = s.init := rfl
@[simp] theorem tickAdvance_tie (r : BitVec 7) (s : State) : (tickAdvance r s).tie = s.tie := rfl
@[simp] theorem tickAdvance_pend (r : BitVec 7) (s : State) : (tickAdvance r s).pend = s.pend := rfl
@[simp] theorem tickAdvance_row (r : BitVec 7) (s : State) : (tickAdvance r s).row = BitVec.ofNat 7 ((r.toNat + 1) % s.active.scan.toNat) := rfl
@[simp] theorem tickAdvance_front (r : BitVec 7) (s : State) : (tickAdvance r s).front = s.front := rfl
@[simp] theorem tickAdvance_bright (r : BitVec 7) (s : State) : (tickAdvance r s).bright = s.bright := rfl
@[simp] theorem tickAdvance_duty (r : BitVec 7) (s : State) : (tickAdvance r s).duty = s.duty := rfl
@[simp] theorem tickAdvance_snap (r : BitVec 7) (s : State) : (tickAdvance r s).snap = s.snap := rfl
@[simp] theorem tickAdvance_err (r : BitVec 7) (s : State) : (tickAdvance r s).err = s.err := rfl
@[simp] theorem tickAdvance_pix (r : BitVec 7) (s : State) : (tickAdvance r s).pix = s.pix := rfl
@[simp] theorem tickAdvance_staged (r : BitVec 7) (s : State) : (tickAdvance r s).staged = s.staged := rfl
@[simp] theorem tickAdvance_active (r : BitVec 7) (s : State) : (tickAdvance r s).active = s.active := rfl
@[simp] theorem tickAdvance_tickPeriod (r : BitVec 7) (s : State) : (tickAdvance r s).tickPeriod = s.tickPeriod := rfl
@[simp] theorem tickAdvance_timerCnt (r : BitVec 7) (s : State) : (tickAdvance r s).timerCnt = s.timerCnt := rfl
@[simp] theorem tickAdvance_pwmCnt (r : BitVec 7) (s : State) : (tickAdvance r s).pwmCnt = s.pwmCnt := rfl
@[simp] theorem tickAdvance_lineEn (r : BitVec 7) (s : State) : (tickAdvance r s).lineEn = s.lineEn := rfl
@[simp] theorem tickAdvance_lines (r : BitVec 7) (s : State) : (tickAdvance r s).lines = s.lines := rfl
@[simp] theorem tickAdvance_mem (r : BitVec 7) (s : State) : (tickAdvance r s).mem = s.mem := rfl
@[simp] theorem tickAdvance_cfg (r : BitVec 7) (s : State) : (tickAdvance r s).cfg = s.cfg := rfl
@[simp] theorem tickAdvance_epoch (r : BitVec 7) (s : State) : (tickAdvance r s).epoch = s.epoch := rfl
@[simp] theorem tickAdvance_pwmPhase (r : BitVec 7) (s : State) : (tickAdvance r s).pwmPhase = s.pwmPhase := rfl
@[simp] theorem tickAdvance_trace (r : BitVec 7) (s : State) : (tickAdvance r s).trace = s.trace := rfl
@[simp] theorem tickAdvance_dutyWrites (r : BitVec 7) (s : State) : (tickAdvance r s).dutyWrites = s.dutyWrites := rfl
@[simp] theorem tickAdvance_busReads (r : BitVec 7) (s : State) : (tickAdvance r s).busReads = s.busReads := rfl
@[simp] theorem tickAdvance_agenda (r : BitVec 7) (s : State) : (tickAdvance r s).agenda = s.agenda := rfl

/-! ### configFail -/

@[simp] theorem configFail_init (c : ErrCode) (s : State) : (configFail c s).init = false := rfl
@[simp] theorem configFail_tie (c : ErrCode) (s : State) : (configFail c s).tie = false := rfl
@[simp] theorem configFail_pend (c : ErrCode) (s : State) : (configFail c s).pend = false := rfl
@[simp] theorem configFail_row (c : ErrCode) (s : State) : (configFail c s).row = s.row := rfl
@[simp] theorem configFail_front (c : ErrCode) (s : State) : (configFail c s).front = s.front := rfl
@[simp] theorem configFail_bright (c : ErrCode) (s : State) : (configFail c s).bright = s.bright := rfl
@[simp] theorem configFail_duty (c : ErrCode) (s : State) : (configFail c s).duty = s.duty := rfl
@[simp] theorem configFail_snap (c : ErrCode) (s : State) : (configFail c s).snap = s.snap := rfl
@[simp] theorem configFail_err (c : ErrCode) (s : State) : (configFail c s).err = errNumber c := rfl
@[simp] theorem configFail_pix (c : ErrCode) (s : State) : (configFail c s).pix = s.pix := rfl
@[simp] theorem configFail_staged (c : ErrCode) (s : State) : (configFail c s).staged = s.staged := rfl
@[simp] theorem configFail_active (c : ErrCode) (s : State) : (configFail c s).active = s.active := rfl
@[simp] theorem configFail_tickPeriod (c : ErrCode) (s : State) : (configFail c s).tickPeriod = s.tickPeriod := rfl
@[simp] theorem configFail_timerCnt (c : ErrCode) (s : State) : (configFail c s).timerCnt = s.timerCnt := rfl
@[simp] theorem configFail_pwmCnt (c : ErrCode) (s : State) : (configFail c s).pwmCnt = s.pwmCnt := rfl
@[simp] theorem configFail_lineEn (c : ErrCode) (s : State) : (configFail c s).lineEn = s.lineEn := rfl
@[simp] theorem configFail_lines (c : ErrCode) (s : State) : (configFail c s).lines = s.lines := rfl
@[simp] theorem configFail_mem (c : ErrCode) (s : State) : (configFail c s).mem = s.mem := rfl
@[simp] theorem configFail_cfg (c : ErrCode) (s : State) : (configFail c s).cfg = s.cfg := rfl
@[simp] theorem configFail_epoch (c : ErrCode) (s : State) : (configFail c s).epoch = s.epoch := rfl
@[simp] theorem configFail_pwmPhase (c : ErrCode) (s : State) : (configFail c s).pwmPhase = s.pwmPhase := rfl
@[simp] theorem configFail_trace (c : ErrCode) (s : State) : (configFail c s).trace = s.trace := rfl
@[simp] theorem configFail_dutyWrites (c : ErrCode) (s : State) : (configFail c s).dutyWrites = s.dutyWrites := rfl
@[simp] theorem configFail_busReads (c : ErrCode) (s : State) : (configFail c s).busReads = s.busReads := rfl
@[simp] theorem configFail_agenda (c : ErrCode) (s : State) : (configFail c s).agenda = s.agenda := rfl

/-! ### emit: only the lines, their direction, the duty register and the two records of outputs move -/

@[simp] theorem emit_init (e : LineEvent) (s : State) : (emit e s).init = s.init := by cases e <;> rfl
@[simp] theorem emit_tie (e : LineEvent) (s : State) : (emit e s).tie = s.tie := by cases e <;> rfl
@[simp] theorem emit_pend (e : LineEvent) (s : State) : (emit e s).pend = s.pend := by cases e <;> rfl
@[simp] theorem emit_row (e : LineEvent) (s : State) : (emit e s).row = s.row := by cases e <;> rfl
@[simp] theorem emit_front (e : LineEvent) (s : State) : (emit e s).front = s.front := by cases e <;> rfl
@[simp] theorem emit_bright (e : LineEvent) (s : State) : (emit e s).bright = s.bright := by cases e <;> rfl
@[simp] theorem emit_snap (e : LineEvent) (s : State) : (emit e s).snap = s.snap := by cases e <;> rfl
@[simp] theorem emit_err (e : LineEvent) (s : State) : (emit e s).err = s.err := by cases e <;> rfl
@[simp] theorem emit_pix (e : LineEvent) (s : State) : (emit e s).pix = s.pix := by cases e <;> rfl
@[simp] theorem emit_staged (e : LineEvent) (s : State) : (emit e s).staged = s.staged := by cases e <;> rfl
@[simp] theorem emit_active (e : LineEvent) (s : State) : (emit e s).active = s.active := by cases e <;> rfl
@[simp] theorem emit_tickPeriod (e : LineEvent) (s : State) : (emit e s).tickPeriod = s.tickPeriod := by cases e <;> rfl
@[simp] theorem emit_timerCnt (e : LineEvent) (s : State) : (emit e s).timerCnt = s.timerCnt := by cases e <;> rfl
@[simp] theorem emit_pwmCnt (e : LineEvent) (s : State) : (emit e s).pwmCnt = s.pwmCnt := by cases e <;> rfl
@[simp] theorem emit_lines (e : LineEvent) (s : State) : (emit e s).lines = lineLevels e s.lines := by cases e <;> rfl
@[simp] theorem emit_mem (e : LineEvent) (s : State) : (emit e s).mem = s.mem := by cases e <;> rfl
@[simp] theorem emit_cfg (e : LineEvent) (s : State) : (emit e s).cfg = s.cfg := by cases e <;> rfl
@[simp] theorem emit_epoch (e : LineEvent) (s : State) : (emit e s).epoch = s.epoch := by cases e <;> rfl
@[simp] theorem emit_pwmPhase (e : LineEvent) (s : State) : (emit e s).pwmPhase = s.pwmPhase := by cases e <;> rfl
@[simp] theorem emit_trace (e : LineEvent) (s : State) : (emit e s).trace = s.trace ++ [e] := by cases e <;> rfl
@[simp] theorem emit_busReads (e : LineEvent) (s : State) : (emit e s).busReads = s.busReads := by cases e <;> rfl
@[simp] theorem emit_agenda (e : LineEvent) (s : State) : (emit e s).agenda = s.agenda := by cases e <;> rfl

/-! ### emitAll -/

@[simp] theorem emitAll_init (es : List LineEvent) (s : State) : (emitAll es s).init = s.init := by
  induction es generalizing s with
  | nil => rfl
  | cons e es ih => simp [emitAll, ih]
@[simp] theorem emitAll_tie (es : List LineEvent) (s : State) : (emitAll es s).tie = s.tie := by
  induction es generalizing s with
  | nil => rfl
  | cons e es ih => simp [emitAll, ih]
@[simp] theorem emitAll_pend (es : List LineEvent) (s : State) : (emitAll es s).pend = s.pend := by
  induction es generalizing s with
  | nil => rfl
  | cons e es ih => simp [emitAll, ih]
@[simp] theorem emitAll_row (es : List LineEvent) (s : State) : (emitAll es s).row = s.row := by
  induction es generalizing s with
  | nil => rfl
  | cons e es ih => simp [emitAll, ih]
@[simp] theorem emitAll_front (es : List LineEvent) (s : State) : (emitAll es s).front = s.front := by
  induction es generalizing s with
  | nil => rfl
  | cons e es ih => simp [emitAll, ih]
@[simp] theorem emitAll_bright (es : List LineEvent) (s : State) : (emitAll es s).bright = s.bright := by
  induction es generalizing s with
  | nil => rfl
  | cons e es ih => simp [emitAll, ih]
@[simp] theorem emitAll_snap (es : List LineEvent) (s : State) : (emitAll es s).snap = s.snap := by
  induction es generalizing s with
  | nil => rfl
  | cons e es ih => simp [emitAll, ih]
@[simp] theorem emitAll_err (es : List LineEvent) (s : State) : (emitAll es s).err = s.err := by
  induction es generalizing s with
  | nil => rfl
  | cons e es ih => simp [emitAll, ih]
@[simp] theorem emitAll_pix (es : List LineEvent) (s : State) : (emitAll es s).pix = s.pix := by
  induction es generalizing s with
  | nil => rfl
  | cons e es ih => simp [emitAll, ih]
@[simp] theorem emitAll_staged (es : List LineEvent) (s : State) : (emitAll es s).staged = s.staged := by
  induction es generalizing s with
  | nil => rfl
  | cons e es ih => simp [emitAll, ih]
@[simp] theorem emitAll_active (es : List LineEvent) (s : State) : (emitAll es s).active = s.active := by
  induction es generalizing s with
  | nil => rfl
  | cons e es ih => simp [emitAll, ih]
@[simp] theorem emitAll_tickPeriod (es : List LineEvent) (s : State) : (emitAll es s).tickPeriod = s.tickPeriod := by
  induction es generalizing s with
  | nil => rfl
  | cons e es ih => simp [emitAll, ih]
@[simp] theorem emitAll_timerCnt (es : List LineEvent) (s : State) : (emitAll es s).timerCnt = s.timerCnt := by
  induction es generalizing s with
  | nil => rfl
  | cons e es ih => simp [emitAll, ih]
@[simp] theorem emitAll_pwmCnt (es : List LineEvent) (s : State) : (emitAll es s).pwmCnt = s.pwmCnt := by
  induction es generalizing s with
  | nil => rfl
  | cons e es ih => simp [emitAll, ih]
@[simp] theorem emitAll_mem (es : List LineEvent) (s : State) : (emitAll es s).mem = s.mem := by
  induction es generalizing s with
  | nil => rfl
  | cons e es ih => simp [emitAll, ih]
@[simp] theorem emitAll_cfg (es : List LineEvent) (s : State) : (emitAll es s).cfg = s.cfg := by
  induction es generalizing s with
  | nil => rfl
  | cons e es ih => simp [emitAll, ih]
@[simp] theorem emitAll_epoch (es : List LineEvent) (s : State) : (emitAll es s).epoch = s.epoch := by
  induction es generalizing s with
  | nil => rfl
  | cons e es ih => simp [emitAll, ih]
@[simp] theorem emitAll_pwmPhase (es : List LineEvent) (s : State) : (emitAll es s).pwmPhase = s.pwmPhase := by
  induction es generalizing s with
  | nil => rfl
  | cons e es ih => simp [emitAll, ih]
@[simp] theorem emitAll_busReads (es : List LineEvent) (s : State) : (emitAll es s).busReads = s.busReads := by
  induction es generalizing s with
  | nil => rfl
  | cons e es ih => simp [emitAll, ih]
@[simp] theorem emitAll_agenda (es : List LineEvent) (s : State) : (emitAll es s).agenda = s.agenda := by
  induction es generalizing s with
  | nil => rfl
  | cons e es ih => simp [emitAll, ih]

/-! ### tickEnter -/

@[simp] theorem tickEnter_init (s : State) : (tickEnter s).init = s.init := rfl
@[simp] theorem tickEnter_tie (s : State) : (tickEnter s).tie = s.tie := rfl
@[simp] theorem tickEnter_pend (s : State) : (tickEnter s).pend = s.pend := rfl
@[simp] theorem tickEnter_row (s : State) : (tickEnter s).row = s.row := rfl
@[simp] theorem tickEnter_front (s : State) : (tickEnter s).front = s.front := rfl
@[simp] theorem tickEnter_bright (s : State) : (tickEnter s).bright = s.bright := rfl
@[simp] theorem tickEnter_duty (s : State) : (tickEnter s).duty = dutyOff := rfl
@[simp] theorem tickEnter_snap (s : State) : (tickEnter s).snap = s.duty := rfl
@[simp] theorem tickEnter_err (s : State) : (tickEnter s).err = s.err := rfl
@[simp] theorem tickEnter_pix (s : State) : (tickEnter s).pix = s.pix := rfl
@[simp] theorem tickEnter_staged (s : State) : (tickEnter s).staged = s.staged := rfl
@[simp] theorem tickEnter_active (s : State) : (tickEnter s).active = s.active := rfl
@[simp] theorem tickEnter_tickPeriod (s : State) : (tickEnter s).tickPeriod = s.tickPeriod := rfl
@[simp] theorem tickEnter_timerCnt (s : State) : (tickEnter s).timerCnt = s.timerCnt := rfl
@[simp] theorem tickEnter_pwmCnt (s : State) : (tickEnter s).pwmCnt = s.pwmCnt := rfl
@[simp] theorem tickEnter_lineEn (s : State) : (tickEnter s).lineEn = s.lineEn := rfl
@[simp] theorem tickEnter_lines (s : State) : (tickEnter s).lines = s.lines := rfl
@[simp] theorem tickEnter_mem (s : State) : (tickEnter s).mem = s.mem := rfl
@[simp] theorem tickEnter_cfg (s : State) : (tickEnter s).cfg = s.cfg := rfl
@[simp] theorem tickEnter_epoch (s : State) : (tickEnter s).epoch = s.epoch := rfl
@[simp] theorem tickEnter_pwmPhase (s : State) : (tickEnter s).pwmPhase = s.pwmPhase := rfl
@[simp] theorem tickEnter_trace (s : State) : (tickEnter s).trace = s.trace ++ [.duty dutyOff] := rfl
@[simp] theorem tickEnter_dutyWrites (s : State) : (tickEnter s).dutyWrites = s.dutyWrites ++ [dutyOff] := rfl
@[simp] theorem tickEnter_busReads (s : State) : (tickEnter s).busReads = s.busReads := rfl
@[simp] theorem tickEnter_agenda (s : State) : (tickEnter s).agenda = s.agenda := rfl

/-! ### tickReturn -/

@[simp] theorem tickReturn_init (s : State) : (tickReturn s).init = s.init := rfl
@[simp] theorem tickReturn_tie (s : State) : (tickReturn s).tie = s.tie := rfl
@[simp] theorem tickReturn_pend (s : State) : (tickReturn s).pend = s.pend := rfl
@[simp] theorem tickReturn_row (s : State) : (tickReturn s).row = s.row := rfl
@[simp] theorem tickReturn_front (s : State) : (tickReturn s).front = s.front := rfl
@[simp] theorem tickReturn_bright (s : State) : (tickReturn s).bright = s.bright := rfl
@[simp] theorem tickReturn_duty (s : State) : (tickReturn s).duty = s.snap := rfl
@[simp] theorem tickReturn_snap (s : State) : (tickReturn s).snap = s.snap := rfl
@[simp] theorem tickReturn_err (s : State) : (tickReturn s).err = s.err := rfl
@[simp] theorem tickReturn_pix (s : State) : (tickReturn s).pix = s.pix := rfl
@[simp] theorem tickReturn_staged (s : State) : (tickReturn s).staged = s.staged := rfl
@[simp] theorem tickReturn_active (s : State) : (tickReturn s).active = s.active := rfl
@[simp] theorem tickReturn_tickPeriod (s : State) : (tickReturn s).tickPeriod = s.tickPeriod := rfl
@[simp] theorem tickReturn_timerCnt (s : State) : (tickReturn s).timerCnt = s.timerCnt := rfl
@[simp] theorem tickReturn_pwmCnt (s : State) : (tickReturn s).pwmCnt = s.pwmCnt := rfl
@[simp] theorem tickReturn_lineEn (s : State) : (tickReturn s).lineEn = s.lineEn := rfl
@[simp] theorem tickReturn_lines (s : State) : (tickReturn s).lines = s.lines := rfl
@[simp] theorem tickReturn_mem (s : State) : (tickReturn s).mem = s.mem := rfl
@[simp] theorem tickReturn_cfg (s : State) : (tickReturn s).cfg = s.cfg := rfl
@[simp] theorem tickReturn_epoch (s : State) : (tickReturn s).epoch = s.epoch := rfl
@[simp] theorem tickReturn_pwmPhase (s : State) : (tickReturn s).pwmPhase = s.pwmPhase := rfl
@[simp] theorem tickReturn_trace (s : State) : (tickReturn s).trace = s.trace ++ [.duty s.snap] := rfl
@[simp] theorem tickReturn_dutyWrites (s : State) : (tickReturn s).dutyWrites = s.dutyWrites ++ [s.snap] := rfl
@[simp] theorem tickReturn_busReads (s : State) : (tickReturn s).busReads = s.busReads := rfl
@[simp] theorem tickReturn_agenda (s : State) : (tickReturn s).agenda = s.agenda := rfl

/-! ### timerExpire -/

@[simp] theorem timerExpire_init (s : State) : (timerExpire s).init = s.init := by unfold timerExpire; split <;> rfl
@[simp] theorem timerExpire_tie (s : State) : (timerExpire s).tie = s.tie := by unfold timerExpire; split <;> rfl
@[simp] theorem timerExpire_row (s : State) : (timerExpire s).row = s.row := by unfold timerExpire; split <;> rfl
@[simp] theorem timerExpire_front (s : State) : (timerExpire s).front = s.front := by unfold timerExpire; split <;> rfl
@[simp] theorem timerExpire_bright (s : State) : (timerExpire s).bright = s.bright := by unfold timerExpire; split <;> rfl
@[simp] theorem timerExpire_duty (s : State) : (timerExpire s).duty = s.duty := by unfold timerExpire; split <;> rfl
@[simp] theorem timerExpire_snap (s : State) : (timerExpire s).snap = s.snap := by unfold timerExpire; split <;> rfl
@[simp] theorem timerExpire_err (s : State) : (timerExpire s).err = s.err := by unfold timerExpire; split <;> rfl
@[simp] theorem timerExpire_pix (s : State) : (timerExpire s).pix = s.pix := by unfold timerExpire; split <;> rfl
@[simp] theorem timerExpire_staged (s : State) : (timerExpire s).staged = s.staged := by unfold timerExpire; split <;> rfl
@[simp] theorem timerExpire_active (s : State) : (timerExpire s).active = s.active := by unfold timerExpire; split <;> rfl
@[simp] theorem timerExpire_tickPeriod (s : State) : (timerExpire s).tickPeriod = s.tickPeriod := by unfold timerExpire; split <;> rfl
@[simp] theorem timerExpire_timerCnt (s : State) : (timerExpire s).timerCnt = s.timerCnt := by unfold timerExpire; split <;> rfl
@[simp] theorem timerExpire_pwmCnt (s : State) : (timerExpire s).pwmCnt = s.pwmCnt := by unfold timerExpire; split <;> rfl
@[simp] theorem timerExpire_lineEn (s : State) : (timerExpire s).lineEn = s.lineEn := by unfold timerExpire; split <;> rfl
@[simp] theorem timerExpire_lines (s : State) : (timerExpire s).lines = s.lines := by unfold timerExpire; split <;> rfl
@[simp] theorem timerExpire_mem (s : State) : (timerExpire s).mem = s.mem := by unfold timerExpire; split <;> rfl
@[simp] theorem timerExpire_cfg (s : State) : (timerExpire s).cfg = s.cfg := by unfold timerExpire; split <;> rfl
@[simp] theorem timerExpire_epoch (s : State) : (timerExpire s).epoch = s.epoch := by unfold timerExpire; split <;> rfl
@[simp] theorem timerExpire_pwmPhase (s : State) : (timerExpire s).pwmPhase = s.pwmPhase := by unfold timerExpire; split <;> rfl
@[simp] theorem timerExpire_trace (s : State) : (timerExpire s).trace = s.trace := by unfold timerExpire; split <;> rfl
@[simp] theorem timerExpire_dutyWrites (s : State) : (timerExpire s).dutyWrites = s.dutyWrites := by unfold timerExpire; split <;> rfl
@[simp] theorem timerExpire_busReads (s : State) : (timerExpire s).busReads = s.busReads := by unfold timerExpire; split <;> rfl
@[simp] theorem timerExpire_agenda (s : State) : (timerExpire s).agenda = s.agenda := by unfold timerExpire; split <;> rfl

/-! ### timerClock -/

@[simp] theorem timerClock_init (s : State) : (timerClock s).init = s.init := by
  unfold timerClock; split
  · split <;> rfl
  · rfl
@[simp] theorem timerClock_tie (s : State) : (timerClock s).tie = s.tie := by
  unfold timerClock; split
  · split <;> rfl
  · rfl
@[simp] theorem timerClock_row (s : State) : (timerClock s).row = s.row := by
  unfold timerClock; split
  · split <;> rfl
  · rfl
@[simp] theorem timerClock_front (s : State) : (timerClock s).front = s.front := by
  unfold timerClock; split
  · split <;> rfl
  · rfl
@[simp] theorem timerClock_bright (s : State) : (timerClock s).bright = s.bright := by
  unfold timerClock; split
  · split <;> rfl
  · rfl
@[simp] theorem timerClock_duty (s : State) : (timerClock s).duty = s.duty := by
  unfold timerClock; split
  · split <;> rfl
  · rfl
@[simp] theorem timerClock_snap (s : State) : (timerClock s).snap = s.snap := by
  unfold timerClock; split
  · split <;> rfl
  · rfl
@[simp] theorem timerClock_err (s : State) : (timerClock s).err = s.err := by
  unfold timerClock; split
  · split <;> rfl
  · rfl
@[simp] theorem timerClock_pix (s : State) : (timerClock s).pix = s.pix := by
  unfold timerClock; split
  · split <;> rfl
  · rfl
@[simp] theorem timerClock_staged (s : State) : (timerClock s).staged = s.staged := by
  unfold timerClock; split
  · split <;> rfl
  · rfl
@[simp] theorem timerClock_active (s : State) : (timerClock s).active = s.active := by
  unfold timerClock; split
  · split <;> rfl
  · rfl
@[simp] theorem timerClock_tickPeriod (s : State) : (timerClock s).tickPeriod = s.tickPeriod := by
  unfold timerClock; split
  · split <;> rfl
  · rfl
@[simp] theorem timerClock_pwmCnt (s : State) : (timerClock s).pwmCnt = s.pwmCnt := by
  unfold timerClock; split
  · split <;> rfl
  · rfl
@[simp] theorem timerClock_lineEn (s : State) : (timerClock s).lineEn = s.lineEn := by
  unfold timerClock; split
  · split <;> rfl
  · rfl
@[simp] theorem timerClock_lines (s : State) : (timerClock s).lines = s.lines := by
  unfold timerClock; split
  · split <;> rfl
  · rfl
@[simp] theorem timerClock_mem (s : State) : (timerClock s).mem = s.mem := by
  unfold timerClock; split
  · split <;> rfl
  · rfl
@[simp] theorem timerClock_cfg (s : State) : (timerClock s).cfg = s.cfg := by
  unfold timerClock; split
  · split <;> rfl
  · rfl
@[simp] theorem timerClock_epoch (s : State) : (timerClock s).epoch = s.epoch := by
  unfold timerClock; split
  · split <;> rfl
  · rfl
@[simp] theorem timerClock_pwmPhase (s : State) : (timerClock s).pwmPhase = s.pwmPhase := by
  unfold timerClock; split
  · split <;> rfl
  · rfl
@[simp] theorem timerClock_trace (s : State) : (timerClock s).trace = s.trace := by
  unfold timerClock; split
  · split <;> rfl
  · rfl
@[simp] theorem timerClock_dutyWrites (s : State) : (timerClock s).dutyWrites = s.dutyWrites := by
  unfold timerClock; split
  · split <;> rfl
  · rfl
@[simp] theorem timerClock_busReads (s : State) : (timerClock s).busReads = s.busReads := by
  unfold timerClock; split
  · split <;> rfl
  · rfl
@[simp] theorem timerClock_agenda (s : State) : (timerClock s).agenda = s.agenda := by
  unfold timerClock; split
  · split <;> rfl
  · rfl

/-! ### pwmClock -/

@[simp] theorem pwmClock_init (s : State) : (pwmClock s).init = s.init := by unfold pwmClock; split <;> rfl
@[simp] theorem pwmClock_tie (s : State) : (pwmClock s).tie = s.tie := by unfold pwmClock; split <;> rfl
@[simp] theorem pwmClock_pend (s : State) : (pwmClock s).pend = s.pend := by unfold pwmClock; split <;> rfl
@[simp] theorem pwmClock_row (s : State) : (pwmClock s).row = s.row := by unfold pwmClock; split <;> rfl
@[simp] theorem pwmClock_front (s : State) : (pwmClock s).front = s.front := by unfold pwmClock; split <;> rfl
@[simp] theorem pwmClock_bright (s : State) : (pwmClock s).bright = s.bright := by unfold pwmClock; split <;> rfl
@[simp] theorem pwmClock_duty (s : State) : (pwmClock s).duty = s.duty := by unfold pwmClock; split <;> rfl
@[simp] theorem pwmClock_snap (s : State) : (pwmClock s).snap = s.snap := by unfold pwmClock; split <;> rfl
@[simp] theorem pwmClock_err (s : State) : (pwmClock s).err = s.err := by unfold pwmClock; split <;> rfl
@[simp] theorem pwmClock_pix (s : State) : (pwmClock s).pix = s.pix := by unfold pwmClock; split <;> rfl
@[simp] theorem pwmClock_staged (s : State) : (pwmClock s).staged = s.staged := by unfold pwmClock; split <;> rfl
@[simp] theorem pwmClock_active (s : State) : (pwmClock s).active = s.active := by unfold pwmClock; split <;> rfl
@[simp] theorem pwmClock_tickPeriod (s : State) : (pwmClock s).tickPeriod = s.tickPeriod := by unfold pwmClock; split <;> rfl
@[simp] theorem pwmClock_timerCnt (s : State) : (pwmClock s).timerCnt = s.timerCnt := by unfold pwmClock; split <;> rfl
@[simp] theorem pwmClock_lineEn (s : State) : (pwmClock s).lineEn = s.lineEn := by unfold pwmClock; split <;> rfl
@[simp] theorem pwmClock_lines (s : State) : (pwmClock s).lines = s.lines := by unfold pwmClock; split <;> rfl
@[simp] theorem pwmClock_mem (s : State) : (pwmClock s).mem = s.mem := by unfold pwmClock; split <;> rfl
@[simp] theorem pwmClock_cfg (s : State) : (pwmClock s).cfg = s.cfg := by unfold pwmClock; split <;> rfl
@[simp] theorem pwmClock_epoch (s : State) : (pwmClock s).epoch = s.epoch := by unfold pwmClock; split <;> rfl
@[simp] theorem pwmClock_trace (s : State) : (pwmClock s).trace = s.trace := by unfold pwmClock; split <;> rfl
@[simp] theorem pwmClock_dutyWrites (s : State) : (pwmClock s).dutyWrites = s.dutyWrites := by unfold pwmClock; split <;> rfl
@[simp] theorem pwmClock_busReads (s : State) : (pwmClock s).busReads = s.busReads := by unfold pwmClock; split <;> rfl
@[simp] theorem pwmClock_agenda (s : State) : (pwmClock s).agenda = s.agenda := by unfold pwmClock; split <;> rfl

/-! ### blockClock -/

@[simp] theorem blockClock_init (s : State) : (blockClock s).init = s.init := by simp [blockClock]
@[simp] theorem blockClock_tie (s : State) : (blockClock s).tie = s.tie := by simp [blockClock]
@[simp] theorem blockClock_row (s : State) : (blockClock s).row = s.row := by simp [blockClock]
@[simp] theorem blockClock_front (s : State) : (blockClock s).front = s.front := by simp [blockClock]
@[simp] theorem blockClock_bright (s : State) : (blockClock s).bright = s.bright := by simp [blockClock]
@[simp] theorem blockClock_duty (s : State) : (blockClock s).duty = s.duty := by simp [blockClock]
@[simp] theorem blockClock_snap (s : State) : (blockClock s).snap = s.snap := by simp [blockClock]
@[simp] theorem blockClock_err (s : State) : (blockClock s).err = s.err := by simp [blockClock]
@[simp] theorem blockClock_pix (s : State) : (blockClock s).pix = s.pix := by simp [blockClock]
@[simp] theorem blockClock_staged (s : State) : (blockClock s).staged = s.staged := by simp [blockClock]
@[simp] theorem blockClock_active (s : State) : (blockClock s).active = s.active := by simp [blockClock]
@[simp] theorem blockClock_tickPeriod (s : State) : (blockClock s).tickPeriod = s.tickPeriod := by simp [blockClock]
@[simp] theorem blockClock_lineEn (s : State) : (blockClock s).lineEn = s.lineEn := by simp [blockClock]
@[simp] theorem blockClock_lines (s : State) : (blockClock s).lines = s.lines := by simp [blockClock]
@[simp] theorem blockClock_mem (s : State) : (blockClock s).mem = s.mem := by simp [blockClock]
@[simp] theorem blockClock_cfg (s : State) : (blockClock s).cfg = s.cfg := by simp [blockClock]
@[simp] theorem blockClock_epoch (s : State) : (blockClock s).epoch = s.epoch := by simp [blockClock]
@[simp] theorem blockClock_trace (s : State) : (blockClock s).trace = s.trace := by simp [blockClock]
@[simp] theorem blockClock_dutyWrites (s : State) : (blockClock s).dutyWrites = s.dutyWrites := by simp [blockClock]
@[simp] theorem blockClock_busReads (s : State) : (blockClock s).busReads = s.busReads := by simp [blockClock]
@[simp] theorem blockClock_agenda (s : State) : (blockClock s).agenda = s.agenda := by simp [blockClock]

/-! ### resetBlock -/

@[simp] theorem resetBlock_cfg (s : State) : (resetBlock s).cfg = s.cfg := rfl
@[simp] theorem resetBlock_busReads (s : State) : (resetBlock s).busReads = s.busReads := rfl
@[simp] theorem resetBlock_agenda (s : State) : (resetBlock s).agenda = s.agenda := rfl

/-! ### offerCommand -/

@[simp] theorem offerCommand_init (w : Word) (s : State) : (offerCommand w s).init = s.init := rfl
@[simp] theorem offerCommand_tie (w : Word) (s : State) : (offerCommand w s).tie = s.tie := rfl
@[simp] theorem offerCommand_pend (w : Word) (s : State) : (offerCommand w s).pend = s.pend := rfl
@[simp] theorem offerCommand_row (w : Word) (s : State) : (offerCommand w s).row = s.row := rfl
@[simp] theorem offerCommand_front (w : Word) (s : State) : (offerCommand w s).front = s.front := rfl
@[simp] theorem offerCommand_bright (w : Word) (s : State) : (offerCommand w s).bright = s.bright := rfl
@[simp] theorem offerCommand_duty (w : Word) (s : State) : (offerCommand w s).duty = s.duty := rfl
@[simp] theorem offerCommand_snap (w : Word) (s : State) : (offerCommand w s).snap = s.snap := rfl
@[simp] theorem offerCommand_err (w : Word) (s : State) : (offerCommand w s).err = s.err := rfl
@[simp] theorem offerCommand_pix (w : Word) (s : State) : (offerCommand w s).pix = s.pix := rfl
@[simp] theorem offerCommand_staged (w : Word) (s : State) : (offerCommand w s).staged = s.staged := rfl
@[simp] theorem offerCommand_active (w : Word) (s : State) : (offerCommand w s).active = s.active := rfl
@[simp] theorem offerCommand_tickPeriod (w : Word) (s : State) : (offerCommand w s).tickPeriod = s.tickPeriod := rfl
@[simp] theorem offerCommand_timerCnt (w : Word) (s : State) : (offerCommand w s).timerCnt = s.timerCnt := rfl
@[simp] theorem offerCommand_pwmCnt (w : Word) (s : State) : (offerCommand w s).pwmCnt = s.pwmCnt := rfl
@[simp] theorem offerCommand_lineEn (w : Word) (s : State) : (offerCommand w s).lineEn = s.lineEn := rfl
@[simp] theorem offerCommand_lines (w : Word) (s : State) : (offerCommand w s).lines = s.lines := rfl
@[simp] theorem offerCommand_mem (w : Word) (s : State) : (offerCommand w s).mem = s.mem := rfl
@[simp] theorem offerCommand_cfg (w : Word) (s : State) : (offerCommand w s).cfg = s.cfg := rfl
@[simp] theorem offerCommand_epoch (w : Word) (s : State) : (offerCommand w s).epoch = s.epoch := rfl
@[simp] theorem offerCommand_pwmPhase (w : Word) (s : State) : (offerCommand w s).pwmPhase = s.pwmPhase := rfl
@[simp] theorem offerCommand_trace (w : Word) (s : State) : (offerCommand w s).trace = s.trace := rfl
@[simp] theorem offerCommand_dutyWrites (w : Word) (s : State) : (offerCommand w s).dutyWrites = s.dutyWrites := rfl
@[simp] theorem offerCommand_busReads (w : Word) (s : State) : (offerCommand w s).busReads = s.busReads := rfl
@[simp] theorem offerCommand_agenda (w : Word) (s : State) : (offerCommand w s).agenda = commandWrite w :: s.agenda := rfl

end Sys2Proof.Machine
end

