-- ==== Sys2Proof/Laws/Memory.lean ====
section
/-! SUPPORT. Framebuffer memory: read after write, the canonical form, and what the two loops do. -/

namespace Sys2Proof.Machine

/-! ### One byte -/

@[simp] theorem cell?_nil (a : Nat) : Memory.cell? [] a = none := rfl

@[simp] theorem cell?_put_same (m : Memory) (a : Nat) (v : Byte) : Memory.cell? (Memory.put m a v) a = some v := by
  induction m with
  | nil => simp [Memory.put, Memory.cell?]
  | cons c rest ih =>
    obtain ⟨k, u⟩ := c
    simp only [Memory.put]
    split
    · simp [Memory.cell?]
    · split
      · simp [Memory.cell?]
      · rename_i h1 h2
        simp [Memory.cell?, h1, h2, ih]

theorem cell?_put_other {m : Memory} {a b : Nat} (v : Byte) (h : b ≠ a) :
    Memory.cell? (Memory.put m a v) b = Memory.cell? m b := by
  induction m with
  | nil =>
    simp only [Memory.put, Memory.cell?]
    split <;> simp_all
  | cons c rest ih =>
    obtain ⟨k, u⟩ := c
    simp only [Memory.put]
    split
    · rename_i hk
      simp only [Memory.cell?]
      split
      · have : b < k := by omega
        simp [this]
      · simp
    · split
      · rename_i _ hk
        subst hk
        simp [Memory.cell?, h]
      · simp [Memory.cell?, ih]

theorem mem_put {m : Memory} {a : Nat} {v : Byte} {c : Host.Cell} (h : c ∈ Memory.put m a v) : c = (a, v) ∨ c ∈ m := by
  induction m with
  | nil => simpa [Memory.put] using h
  | cons d rest ih =>
    obtain ⟨k, u⟩ := d
    simp only [Memory.put] at h
    split at h
    · simpa using h
    · split at h
      · rcases List.mem_cons.1 h with rfl | h
        · exact .inl rfl
        · exact .inr (List.mem_cons_of_mem _ h)
      · rcases List.mem_cons.1 h with rfl | h
        · exact .inr List.mem_cons_self
        · exact (ih h).imp_right (List.mem_cons_of_mem _)

/-- Every write keeps the canonical form. -/
theorem put_wf {m : Memory} (h : m.wf) (a : Nat) (v : Byte) : (Memory.put m a v).wf := by
  induction m with
  | nil => simp [Memory.put, Memory.wf]
  | cons d rest ih =>
    obtain ⟨k, u⟩ := d
    simp only [Memory.wf, List.map_cons, List.pairwise_cons] at h ih ⊢
    simp only [Memory.put]
    split
    · rename_i hk
      simp only [List.map_cons, List.pairwise_cons, List.mem_cons, forall_eq_or_imp]
      exact ⟨⟨hk, fun x hx => lt_trans hk (h.1 x hx)⟩, h⟩
    · split
      · rename_i _ hk
        subst hk
        simpa using h
      · simp only [List.map_cons, List.pairwise_cons]
        refine ⟨fun x hx => ?_, ih h.2⟩
        obtain ⟨c, hc, rfl⟩ := List.mem_map.1 hx
        rcases mem_put hc with rfl | hc
        · simp only; omega
        · exact h.1 _ (List.mem_map.2 ⟨c, hc, rfl⟩)

/-- Writing what is there already changes nothing. -/
theorem put_cell?_self {m : Memory} {a : Nat} {v : Byte} (h : Memory.cell? m a = some v) : Memory.put m a v = m := by
  induction m with
  | nil => simp at h
  | cons d rest ih =>
    obtain ⟨k, u⟩ := d
    simp only [Memory.cell?] at h
    simp only [Memory.put]
    split at h
    · simp at h
    · rename_i hk
      rw [if_neg hk]
      split at h
      · rename_i he
        subst he
        simp_all
      · rename_i he
        rw [if_neg he, ih h]

/-! ### Reads and writes of a state -/

theorem byteAt_congr {s t : State} (hm : t.mem = s.mem) (he : t.epoch = s.epoch) (a : Nat) : byteAt t a = byteAt s a := by
  simp [byteAt, hm, he]

theorem byteAt_put (s : State) (a b : Nat) (v : Byte) :
    byteAt { s with mem := Memory.put s.mem a v } b = if b = a then v else byteAt s b := by
  by_cases h : b = a
  · subst h; simp [byteAt]
  · simp [byteAt, h, cell?_put_other v h]

theorem memRead_ok {s : State} {a : Nat} (h : a < spaceSize s.cfg) : memRead s a = .ok (byteAt s a) := if_pos h

theorem memWrite_ok {s : State} {a : Nat} (v : Byte) (h : a < spaceSize s.cfg) :
    memWrite s a v = .ok { s with mem := Memory.put s.mem a v } := if_pos h

/-- The canonical form and the address space, kept by a write inside the space. -/
theorem memInv_put {s : State} (h : s.MemInv) {a : Nat} (ha : a < spaceSize s.cfg) (v : Byte) :
    State.MemInv { s with mem := Memory.put s.mem a v } where
  wf := put_wf h.wf a v
  inSpace c hc := by
    rcases mem_put hc with rfl | hc
    · exact ha
    · exact h.inSpace c hc

theorem memInv_congr {s t : State} (h : s.MemInv) (hm : t.mem = s.mem) (hc : t.cfg = s.cfg) : t.MemInv where
  wf := by rw [hm]; exact h.wf
  inSpace c hcm := by rw [hm] at hcm; rw [hc]; exact h.inSpace c hcm

/-! ### The loops -/

/-- The filling loop inside the space: it answers, moves nothing but memory, sets exactly its own bytes and keeps the form. -/
theorem fillBytes_spec (base : Nat) (v : Byte) (n : Nat) (s : State) (h : base + n ≤ spaceSize s.cfg) :
    ∃ m, fillBytes base v n s = .ok { s with mem := m } ∧
      (∀ a, byteAt { s with mem := m } a = if base ≤ a ∧ a < base + n then v else byteAt s a) ∧
      (s.MemInv → State.MemInv { s with mem := m }) ∧
      (∀ a, base ≤ a → a < base + n → Memory.cell? m a = some v) ∧
      (∀ a, ¬ (base ≤ a ∧ a < base + n) → Memory.cell? m a = Memory.cell? s.mem a) := by
  induction n with
  | zero =>
    refine ⟨s.mem, rfl, fun a => ?_, fun hm => hm, fun a h1 h2 => absurd h2 (by omega), fun a _ => rfl⟩
    rw [if_neg (by omega)]
  | succ n ih =>
    obtain ⟨m, h1, h2, h3, h4, h5⟩ := ih (by omega)
    have hlt : base + n < spaceSize s.cfg := by omega
    refine ⟨Memory.put m (base + n) v, ?_, fun a => ?_, fun hm => ?_, fun a ha hb => ?_, fun a ha => ?_⟩
    · simp only [fillBytes, h1]
      exact memWrite_ok v hlt
    · have := byteAt_put { s with mem := m } (base + n) a v
      simp only at this
      rw [this, h2]
      by_cases e : a = base + n
      · rw [if_pos e, if_pos (by omega)]
      · rw [if_neg e]
        by_cases r : base ≤ a ∧ a < base + n
        · rw [if_pos r, if_pos (by omega)]
        · rw [if_neg r, if_neg (by omega)]
    · exact memInv_put (h3 hm) hlt v
    · by_cases e : a = base + n
      · subst e; simp
      · rw [cell?_put_other v e]; exact h4 a ha (by omega)
    · rw [cell?_put_other v (by omega)]; exact h5 a (by omega)

/-- Filling with the bytes that are listed already changes nothing. -/
theorem fillBytes_idem (base : Nat) (v : Byte) (n : Nat) (s : State) (h : base + n ≤ spaceSize s.cfg)
    (hv : ∀ a, base ≤ a → a < base + n → Memory.cell? s.mem a = some v) : fillBytes base v n s = .ok s := by
  induction n with
  | zero => rfl
  | succ n ih =>
    simp only [fillBytes, ih (by omega) (fun a h1 h2 => hv a h1 (by omega))]
    rw [memWrite_ok v (by omega), put_cell?_self (hv (base + n) (by omega) (by omega))]

/-- The copying loop between two ranges of the space that do not overlap. -/
theorem copyBytes_spec (src dst n : Nat) (s : State) (hs : src + n ≤ spaceSize s.cfg) (hd : dst + n ≤ spaceSize s.cfg)
    (hap : src + n ≤ dst ∨ dst + n ≤ src) :
    ∃ m, copyBytes src dst n s = .ok { s with mem := m } ∧
      (∀ a, byteAt { s with mem := m } a = if dst ≤ a ∧ a < dst + n then byteAt s (src + (a - dst)) else byteAt s a) ∧
      (s.MemInv → State.MemInv { s with mem := m }) := by
  induction n with
  | zero =>
    refine ⟨s.mem, rfl, fun a => ?_, fun hm => hm⟩
    rw [if_neg (by omega)]
  | succ n ih =>
    obtain ⟨m, h1, h2, h3⟩ := ih (by omega) (by omega) (by omega)
    have hsl : src + n < spaceSize s.cfg := by omega
    have hdl : dst + n < spaceSize s.cfg := by omega
    have hread : byteAt { s with mem := m } (src + n) = byteAt s (src + n) := by rw [h2, if_neg (by omega)]
    refine ⟨Memory.put m (dst + n) (byteAt s (src + n)), ?_, fun a => ?_, fun hm => ?_⟩
    · simp only [copyBytes, h1]
      rw [memRead_ok (s := { s with mem := m }) hsl, hread]
      exact memWrite_ok (s := { s with mem := m }) _ hdl
    · have := byteAt_put { s with mem := m } (dst + n) a (byteAt s (src + n))
      simp only at this
      rw [this, h2]
      by_cases e : a = dst + n
      · rw [if_pos e, if_pos (by omega), e, Nat.add_sub_cancel_left]
      · rw [if_neg e]
        by_cases r : dst ≤ a ∧ a < dst + n
        · rw [if_pos r, if_pos (by omega)]
        · rw [if_neg r, if_neg (by omega)]
    · exact memInv_put (h3 hm) hdl _

/-! ### Frames, wherever the addresses lie -/

theorem memWrite_frame {s t : State} {a : Nat} {v : Byte} (h : memWrite s a v = .ok t) : t = { s with mem := t.mem } := by
  unfold memWrite at h
  split at h <;> cases h
  rfl

theorem fillBytes_frame {base n : Nat} {v : Byte} {s t : State} (h : fillBytes base v n s = .ok t) :
    t = { s with mem := t.mem } := by
  induction n generalizing t with
  | zero => cases h; rfl
  | succ n ih =>
    simp only [fillBytes] at h
    split at h
    · cases h
    · rename_i u hu
      rw [memWrite_frame h, ih hu]

theorem copyBytes_frame {src dst n : Nat} {s t : State} (h : copyBytes src dst n s = .ok t) :
    t = { s with mem := t.mem } := by
  induction n generalizing t with
  | zero => cases h; rfl
  | succ n ih =>
    simp only [copyBytes] at h
    split at h
    · cases h
    · rename_i u hu
      split at h
      · cases h
      · rw [memWrite_frame h, ih hu]

end Sys2Proof.Machine
end

