-- ==== Sys2Proof/Laws/Geometry.lean ====
section
/-! SUPPORT. What the checks of R105 give, and where the addresses of a checked geometry lie. -/

namespace Sys2Proof.Machine

/-- The six checks of R105, all passed. -/
structure Checked (p : Params) (d : Dims) : Prop where
  widthPos : 0 < d.width
  chainPos : 0 < d.chain
  byEight : totalWidth d % 8 = 0
  widthMax : totalWidth d ≤ 8191
  scanPos : 0 < d.scan
  scanBits : d.scan &&& (d.scan - 1) = 0
  address : addressBits d ≤ p.variant.numAddrLines
  lanes : d.lanes ≤ p.variant.numDataLines
  height : d.height = d.lanes * d.scan
  fits : bufferSize d ≤ p.fbCapacity

theorem checkGeom_ok_iff (p : Params) (d : Dims) : checkGeom p d = .ok ↔ Checked p d := by
  constructor
  · intro h
    unfold checkGeom at h
    split_ifs at h with h1 h2 h3 h4 h5 h6
    simp only [not_or, not_not, maxTotalWidth, gt_iff_lt, not_lt] at h1 h2 h3 h4 h5 h6
    exact ⟨by omega, by omega, h1.2.2.1, h1.2.2.2, by omega, h2.2, h3, h4, h5, h6⟩
  · intro h
    obtain ⟨h1, h2, h3, h4, h5, h6, h7, h8, h9, h10⟩ := h
    unfold checkGeom
    have width : ¬ (d.width = 0 ∨ d.chain = 0 ∨ totalWidth d % 8 ≠ 0 ∨ totalWidth d > maxTotalWidth) := by
      simp only [maxTotalWidth]; omega
    have power : ¬ (d.scan = 0 ∨ d.scan &&& (d.scan - 1) ≠ 0) := by simp only [h6]; omega
    rw [if_neg width, if_neg power, if_neg h7.not_gt, if_neg h8.not_gt, if_neg (not_not.2 h9), if_neg h10.not_gt]

/-- A power of two, as R105 tests for one, in the 8 bits of a scan depth. -/
theorem scan_eq_pow {n : Nat} (hlt : n < 256) (h0 : 0 < n) (h : n &&& (n - 1) = 0) : n = 2 ^ Nat.log2 n := by
  have key : ∀ k : Fin 256, 0 < k.val → k.val &&& (k.val - 1) = 0 → k.val = 2 ^ Nat.log2 k.val := by decide +kernel
  exact key ⟨n, hlt⟩ h0 h

namespace Checked

variable {p : Params} {d : Dims}

theorem eightBytes (h : Checked p d) : totalWidth d = 8 * bytesPerRow d := by
  have := h.byEight
  unfold bytesPerRow; omega

theorem bytesPos (h : Checked p d) : 0 < bytesPerRow d := by
  have h1 := h.eightBytes
  have h2 : 0 < totalWidth d := Nat.mul_pos h.widthPos h.chainPos
  omega

/-- A coordinate in range lies in the used bytes of its bank (R60). -/
theorem pixOff_lt (h : Checked p d) {x y : Int} (hr : inRange d x y = true) :
    pixOff d x.toNat y.toNat < bufferSize d := by
  simp only [inRange, decide_eq_true_eq] at hr
  have h1 := h.eightBytes
  have hx : x.toNat >>> 3 < bytesPerRow d := by
    rw [Nat.shiftRight_eq_div_pow]
    omega
  have hy : y.toNat + 1 ≤ d.height := by omega
  have := Nat.mul_le_mul_right (bytesPerRow d) hy
  unfold pixOff bufferSize
  rw [Nat.add_mul, Nat.mul_comm d.height] at this
  omega

theorem bank_fits (h : Checked p d) (bank : Bool) {o : Nat} (ho : o < bufferSize d) :
    bankBase p bank + o < spaceSize p := by
  have := h.fits
  cases bank <;> simp [bankBase, spaceSize] <;> omega

theorem bank_range (h : Checked p d) (bank : Bool) : bankBase p bank + bufferSize d ≤ spaceSize p := by
  have := h.fits
  cases bank <;> simp [bankBase, spaceSize] <;> omega

theorem banks_apart (h : Checked p d) (bank : Bool) :
    bankBase p bank + bufferSize d ≤ bankBase p (!bank) ∨ bankBase p (!bank) + bufferSize d ≤ bankBase p bank := by
  have := h.fits
  cases bank <;> simp [bankBase] <;> omega

end Checked

/-- Row r, byte position b, of the image lies in the used bytes. -/
theorem row_lt (d : Dims) {r b : Nat} (hr : r < d.height) (hb : b < bytesPerRow d) :
    r * bytesPerRow d + b < bufferSize d := by
  have := Nat.mul_le_mul_right (bytesPerRow d) (show r + 1 ≤ d.height from hr)
  unfold bufferSize
  rw [Nat.add_mul, Nat.mul_comm d.height] at this
  omega

/-- The staged numbers become the active ones (R106). -/
theorem activeDims_activate (g : Staged) : activeDims (activate g) = stagedDims g := by
  have : g.lanesBit.toNat < 2 := g.lanesBit.isLt
  simp only [activeDims, activate, stagedDims, BitVec.toNat_ofNat]
  congr 1
  omega

theorem activate_lanes (g : Staged) : (activate g).lanes = 1 ∨ (activate g).lanes = 2 := by
  have : g.lanesBit = 0#1 ∨ g.lanesBit = 1#1 := by
    generalize g.lanesBit = b; revert b; decide
  rcases this with h | h <;> simp [activate, h]

theorem scan_lt (g : Geometry) : (activeDims g).scan < 256 := g.scan.isLt

end Sys2Proof.Machine
end

