-- ==== Sys2Proof/Laws/Scan.lean ====
section
/-! SUPPORT. Events and the tick: what `emitAll` does, what a row group shifts, and the whole effect of a tick. -/

namespace Sys2Proof.Machine

/-! ### Events -/

theorem emitAll_append (es fs : List LineEvent) (s : State) : emitAll (es ++ fs) s = emitAll fs (emitAll es s) := by
  induction es generalizing s with
  | nil => rfl
  | cons e es ih => simp [emitAll, ih]

@[simp] theorem emitAll_trace (es : List LineEvent) (s : State) : (emitAll es s).trace = s.trace ++ es := by
  induction es generalizing s with
  | nil => simp [emitAll]
  | cons e es ih => simp [emitAll, ih]

@[simp] theorem emitAll_lines (es : List LineEvent) (s : State) : (emitAll es s).lines = linesAfter es s.lines := by
  induction es generalizing s with
  | nil => rfl
  | cons e es ih => simp [emitAll, ih, linesAfter]

theorem linesAfter_append (es fs : List LineEvent) (l : Lines) :
    linesAfter (es ++ fs) l = linesAfter fs (linesAfter es l) := by simp [linesAfter]

@[simp] theorem linesAfter_nil (l : Lines) : linesAfter [] l = l := rfl

@[simp] theorem linesAfter_cons (e : LineEvent) (es : List LineEvent) (l : Lines) :
    linesAfter (e :: es) l = linesAfter es (lineLevels e l) := rfl

/-- An event of a line other than the output enable: it writes neither the duty nor the line direction. -/
def isWire : LineEvent → Bool
  | .linesInit => false
  | .data _ => true
  | .data2 _ _ => true
  | .clk _ => true
  | .lat _ => true
  | .addr _ _ => true
  | .duty _ => false

theorem emit_wire {e : LineEvent} (h : isWire e = true) (s : State) :
    emit e s = { s with lines := lineLevels e s.lines, trace := s.trace ++ [e] } := by
  cases e <;> first | rfl | simp [isWire] at h

/-- Wire events move the line levels and the trace, and nothing else. -/
theorem emitAll_wires {es : List LineEvent} (h : ∀ e ∈ es, isWire e = true) (s : State) :
    emitAll es s = { s with lines := linesAfter es s.lines, trace := s.trace ++ es } := by
  induction es generalizing s with
  | nil => simp [emitAll]
  | cons e es ih =>
    simp only [emitAll, emit_wire (h e List.mem_cons_self), linesAfter_cons]
    rw [ih (fun e he => h e (List.mem_cons_of_mem _ he))]
    simp

theorem tickEnter_eq (s : State) : tickEnter s =
    { s with snap := s.duty, duty := dutyOff, trace := s.trace ++ [.duty dutyOff],
             dutyWrites := s.dutyWrites ++ [dutyOff] } := rfl

theorem tickReturn_eq (s : State) : tickReturn s =
    { s with duty := s.snap, trace := s.trace ++ [.duty s.snap], dutyWrites := s.dutyWrites ++ [s.snap] } := rfl

/-! ### Bits of a byte as columns -/

/-- Bit 7 - k of a byte is the pixel of the byte's k-th column (R63). -/
theorem byte_column (d : Byte) (x : Nat) : (d &&& pixMask x != 0#8) = d.getLsbD (7 - x % 8) := by
  have hx : x &&& 7 = x % 8 := Nat.and_two_pow_sub_one_eq_mod x 3
  have key : ∀ (k : Fin 8) (d : BitVec 8), (d &&& (0x80#8 >>> k.val) != 0#8) = d.getLsbD (7 - k.val) := by decide +kernel
  have hlt : x % 8 < 8 := Nat.mod_lt _ (by decide)
  simpa [pixMask, hx] using key ⟨x % 8, hlt⟩ d

theorem pixelAt_eq (s : State) (bank : Bool) (x y : Nat) :
    pixelAt s bank x y =
      (byteAt s (bankBase s.cfg bank + (y * bytesPerRow (activeDims s.active) + x / 8))).getLsbD (7 - x % 8) := by
  rw [pixelAt, byte_column, pixOff, Nat.shiftRight_eq_div_pow]

/-! ### Step 2 -/

/-- What one byte position shifts, from the bytes of the front bank. -/
def positionEvents (s : State) (r b : Nat) : List LineEvent :=
  if s.active.lanes = 2 then
    shiftBytePair (byteAt s (rowByteAddr s r b)) (byteAt s (rowByteAddr s (r + s.active.scan.toNat) b))
  else shiftByte (byteAt s (rowByteAddr s r b))

theorem shiftPosition_ok {s : State} {r b : Nat} (h0 : rowByteAddr s r b < spaceSize s.cfg)
    (h1 : s.active.lanes = 2 → rowByteAddr s (r + s.active.scan.toNat) b < spaceSize s.cfg) :
    shiftPosition s r b = .ok (positionEvents s r b) := by
  unfold shiftPosition positionEvents
  rw [memRead_ok h0]
  by_cases hl : s.active.lanes = 2
  · simp only [if_pos hl]
    rw [memRead_ok (h1 hl)]
  · simp only [if_neg hl]

theorem shiftRow_ok {s : State} {r : Nat} (n : Nat)
    (h0 : ∀ b < n, rowByteAddr s r b < spaceSize s.cfg)
    (h1 : s.active.lanes = 2 → ∀ b < n, rowByteAddr s (r + s.active.scan.toNat) b < spaceSize s.cfg) :
    shiftRow s r n = .ok ((List.range n).flatMap (positionEvents s r)) := by
  induction n with
  | zero => rfl
  | succ n ih =>
    simp only [shiftRow]
    rw [ih (fun b hb => h0 b (by omega)) (fun hl b hb => h1 hl b (by omega)),
      shiftPosition_ok (h0 n (by omega)) (fun hl => h1 hl n (by omega))]
    simp [List.range_succ]

theorem columnEvents_byte (s : State) (r b k : Nat) (hk : k < 8) :
    columnEvents s r (8 * b + k) =
      (if s.active.lanes = 2 then
        LineEvent.data2 ((byteAt s (rowByteAddr s r b)).getLsbD (7 - k))
          ((byteAt s (rowByteAddr s (r + s.active.scan.toNat) b)).getLsbD (7 - k))
      else LineEvent.data ((byteAt s (rowByteAddr s r b)).getLsbD (7 - k))) ::
        [LineEvent.clk true, LineEvent.clk false] := by
  have h1 : (8 * b + k) / 8 = b := by omega
  have h2 : (8 * b + k) % 8 = k := by omega
  simp only [columnEvents, pixelAt_eq, h1, h2, rowByteAddr, Nat.add_assoc]

/-- The 24 events of a byte position are the events of its eight columns. -/
theorem positionEvents_columns (s : State) (r b : Nat) :
    positionEvents s r b = (List.range 8).flatMap fun k => columnEvents s r (8 * b + k) := by
  have h : (List.range 8).flatMap (fun k => columnEvents s r (8 * b + k)) =
      [0, 1, 2, 3, 4, 5, 6, 7].flatMap fun k => columnEvents s r (8 * b + k) := rfl
  rw [h]
  simp only [List.flatMap_cons, List.flatMap_nil]
  rw [columnEvents_byte s r b 0 (by decide), columnEvents_byte s r b 1 (by decide), columnEvents_byte s r b 2 (by decide),
    columnEvents_byte s r b 3 (by decide), columnEvents_byte s r b 4 (by decide), columnEvents_byte s r b 5 (by decide),
    columnEvents_byte s r b 6 (by decide), columnEvents_byte s r b 7 (by decide)]
  unfold positionEvents
  split <;> simp [shiftBytePair, shiftByte, bitOrder]

theorem range_columns {α : Type} (f : Nat → List α) (n : Nat) :
    (List.range (8 * n)).flatMap f = (List.range n).flatMap fun b => (List.range 8).flatMap fun k => f (8 * b + k) := by
  induction n with
  | zero => simp
  | succ n ih =>
    rw [Nat.mul_succ, List.range_add, List.flatMap_append, ih, List.range_succ (n := n), List.flatMap_append]
    simp [List.flatMap_map]

/-- A row group's byte positions, left to right, are its columns, left to right. -/
theorem rowEvents_bytes {s : State} (h : Checked s.cfg (activeDims s.active)) (r : Nat) :
    rowEvents s r = (List.range (bytesPerRow (activeDims s.active))).flatMap (positionEvents s r) := by
  rw [rowEvents, h.eightBytes, range_columns]
  congr 1
  funext b
  exact (positionEvents_columns s r b).symm

/-- A configured block shifts row group r without leaving the framebuffer space (R60, R162). -/
theorem shiftRow_configured {s : State} (h : Checked s.cfg (activeDims s.active))
    (hl : s.active.lanes = 1 ∨ s.active.lanes = 2) {r : Nat} (hr : r < s.active.scan.toNat) :
    shiftRow s r (bytesPerRow (activeDims s.active)) = .ok (rowEvents s r) := by
  have hh := h.height
  have e1 : (activeDims s.active).lanes = s.active.lanes.toNat := rfl
  have e2 : (activeDims s.active).scan = s.active.scan.toNat := rfl
  rw [e1, e2] at hh
  have hrow : ∀ b q, b < bytesPerRow (activeDims s.active) → q < (activeDims s.active).height →
      rowByteAddr s q b < spaceSize s.cfg := by
    intro b q hb hq
    have := h.bank_fits s.front (row_lt (activeDims s.active) hq hb)
    rw [rowByteAddr, Nat.add_assoc]; exact this
  rw [rowEvents_bytes h]
  apply shiftRow_ok
  · intro b hb
    apply hrow b r hb
    rcases hl with hl | hl <;> rw [hl] at hh <;> simp at hh <;> omega
  · intro hl2 b hb
    apply hrow b _ hb
    rw [hl2] at hh
    simp at hh
    omega

/-! ### The events are wires -/

theorem columnEvents_wire (s : State) (r x : Nat) : ∀ e ∈ columnEvents s r x, isWire e = true := by
  intro e he
  unfold columnEvents at he
  split at he <;> simp at he <;> rcases he with rfl | rfl | rfl <;> rfl

theorem rowEvents_wire (s : State) (r : Nat) : ∀ e ∈ rowEvents s r, isWire e = true := by
  intro e he
  obtain ⟨x, _, hx⟩ := List.mem_flatMap.1 he
  exact columnEvents_wire s r x e hx

theorem latchEvents_wire (p : Params) : ∀ e ∈ latchEvents p, isWire e = true := by
  intro e he
  obtain ⟨l, hl, hx⟩ := List.mem_flatten.1 he
  rw [List.eq_of_mem_replicate hl] at hx
  simp at hx
  rcases hx with rfl | rfl <;> rfl

theorem addressAndLatch_wire (r : BitVec 7) (s : State) : ∀ e ∈ addressAndLatch r s, isWire e = true := by
  intro e he
  unfold addressAndLatch at he
  split at he <;> simp at he <;> rcases he with h | h
  · subst h; rfl
  · exact latchEvents_wire _ e h
  · exact latchEvents_wire _ e h
  · subst h; rfl

/-! ### The tick -/

theorem byteAt_enter (s : State) (a : Nat) : byteAt (tickEnter { s with pend := false }) a = byteAt s a := rfl

theorem rowEvents_congr {s t : State} (hm : t.mem = s.mem) (he : t.epoch = s.epoch) (hc : t.cfg = s.cfg)
    (ha : t.active = s.active) (hf : t.front = s.front) (r : Nat) : rowEvents t r = rowEvents s r := by
  unfold rowEvents columnEvents pixelAt byteAt
  rw [hm, he, hc, ha, hf]

theorem addressAndLatch_congr {s t : State} (hc : t.cfg = s.cfg) (ha : t.active = s.active) (r : BitVec 7) :
    addressAndLatch r t = addressAndLatch r s := by
  unfold addressAndLatch addressEvent
  rw [hc, ha]

/-- The whole effect of a tick on a configured block (R160-R166): the trace gets `tickEvents`, the lines follow it, `ROW`
advances, the duty comes back, and nothing else but `PEND` and `SNAP` moves. -/
theorem runTick_configured {s : State} (hi : s.init = true) (h : Checked s.cfg (activeDims s.active))
    (hl : s.active.lanes = 1 ∨ s.active.lanes = 2) (hr : s.row.toNat < s.active.scan.toNat) :
    runTick s = .next { s with
      pend := false, snap := s.duty, duty := s.duty,
      row := BitVec.ofNat 7 ((s.row.toNat + 1) % s.active.scan.toNat),
      lines := linesAfter (rowEvents s s.row.toNat ++ addressAndLatch s.row s) s.lines,
      trace := s.trace ++ tickEvents s,
      dutyWrites := s.dutyWrites ++ [dutyOff, s.duty] } := by
  let e := tickEnter { s with pend := false }
  have hshift : tickShift s.row e = .ok (emitAll (rowEvents s s.row.toNat) e) := by
    have hrow := shiftRow_configured (s := e) h hl hr
    rw [rowEvents_congr (t := e) (s := s) rfl rfl rfl rfl rfl] at hrow
    simp only [tickShift, hrow]
  have hinit : ({ s with pend := false } : State).init = true := hi
  simp only [runTick, if_pos hinit]
  change (match tickShift s.row e with
    | .error f => Host.Outcome.fault f
    | .ok u => Host.Outcome.next (tickAdvance s.row (tickReturn (emitAll (addressAndLatch s.row u) u)))) = _
  rw [hshift]
  simp only
  rw [addressAndLatch_congr (s := s) (by simp [e]) (by simp [e]), emitAll_wires (rowEvents_wire s s.row.toNat),
    emitAll_wires (addressAndLatch_wire s.row s)]
  simp only [e, tickEnter_eq, tickReturn_eq, tickAdvance, tickEvents, linesAfter_append, List.append_assoc,
    List.cons_append, List.nil_append]

/-- The guard (R160): with `INIT = 0` a tick changes nothing but `PEND`. -/
theorem runTick_guard {s : State} (hi : s.init = false) : runTick s = .next { s with pend := false } := by
  unfold runTick
  simp [hi]

/-! ### Frames, wherever the addresses lie -/

theorem shiftPosition_wire {s : State} {r b : Nat} {es : List LineEvent} (h : shiftPosition s r b = .ok es) :
    ∀ e ∈ es, isWire e = true := by
  unfold shiftPosition at h
  split at h
  · cases h
  split at h
  · split at h
    · cases h
    cases h
    intro e he
    obtain ⟨i, _, hi⟩ := List.mem_flatMap.1 he
    simp at hi
    rcases hi with rfl | rfl | rfl <;> rfl
  · cases h
    intro e he
    obtain ⟨i, _, hi⟩ := List.mem_flatMap.1 he
    simp at hi
    rcases hi with rfl | rfl | rfl <;> rfl

theorem shiftRow_wire {s : State} {r n : Nat} {es : List LineEvent} (h : shiftRow s r n = .ok es) :
    ∀ e ∈ es, isWire e = true := by
  induction n generalizing es with
  | zero => cases h; simp
  | succ n ih =>
    simp only [shiftRow] at h
    split at h
    · cases h
    rename_i before hb
    split at h
    · cases h
    rename_i here hh
    cases h
    intro e he
    rcases List.mem_append.1 he with he | he
    · exact ih hb e he
    · exact shiftPosition_wire hh e he

/-- What a tick can change, in every state: the registers of R160-R166 and the observations, and nothing else; the duty comes
back. -/
theorem runTick_frame {s t : State} (h : runTick s = .next t) :
    t = { s with
      pend := false, snap := t.snap, duty := t.duty, row := t.row, lines := t.lines, trace := t.trace,
      dutyWrites := t.dutyWrites } ∧ t.duty = s.duty ∧ (s.init = true → t.snap = s.duty) := by
  cases hi : s.init with
  | false =>
    rw [runTick_guard hi] at h
    cases h
    exact ⟨by rw [hi], rfl, by simp⟩
  | true =>
    simp only [runTick, hi, if_true] at h
    split at h
    · cases h
    · rename_i u hu
      cases h
      unfold tickShift at hu
      split at hu
      · cases hu
      · rename_i es he
        cases hu
        rw [emitAll_wires (shiftRow_wire he), emitAll_wires (addressAndLatch_wire _ _)]
        simp [tickAdvance, tickReturn_eq, tickEnter_eq]

/-! ### Counting -/

@[simp] theorem latchEvents_length (p : Params) : (latchEvents p).length = 2 * p.variant.latchPulses := by
  simp [latchEvents, Nat.mul_comm]

@[simp] theorem addressAndLatch_length (r : BitVec 7) (s : State) :
    (addressAndLatch r s).length = 2 * s.cfg.variant.latchPulses + 1 := by
  unfold addressAndLatch
  split <;> simp

theorem columnEvents_length (s : State) (r x : Nat) : (columnEvents s r x).length = 3 := rfl

theorem rowEvents_length (s : State) (r : Nat) :
    (rowEvents s r).length = 3 * totalWidth (activeDims s.active) := by
  simp [rowEvents, List.length_flatMap, columnEvents_length, Nat.mul_comm]

end Sys2Proof.Machine
end

