-- ==== Sys2Proof/Laws/Commands.lean ====
section
/-! SUPPORT. The memory operations behind the commands: each answers on a configured block, and says what it does. -/

namespace Sys2Proof.Machine

theorem checked_of_init {s : State} (hi : s.Inv) (h : s.init = true) : Checked s.cfg (activeDims s.active) :=
  (checkGeom_ok_iff _ _).1 (hi.rule.geometry h)

/-- The two loops of `ConfigApply` on a checked geometry (R106). -/
theorem zeroBanks_spec {s : State} (h : Checked s.cfg (activeDims s.active)) :
    ∃ m, zeroBanks s = .ok { s with mem := m } ∧
      (∀ a, byteAt { s with mem := m } a =
        if InBank s.cfg (activeDims s.active) false a ∨ InBank s.cfg (activeDims s.active) true a then 0#8
        else byteAt s a) ∧
      (s.MemInv → State.MemInv { s with mem := m }) := by
  obtain ⟨m0, e0, b0, i0, _, _⟩ := fillBytes_spec (bankBase s.cfg false) 0#8 _ s (h.bank_range false)
  obtain ⟨m1, e1, b1, i1, _, _⟩ := fillBytes_spec (bankBase s.cfg true) 0#8 _ { s with mem := m0 } (h.bank_range true)
  refine ⟨m1, ?_, fun a => ?_, fun hm => i1 (i0 hm)⟩
  · simp only [zeroBanks, e0]
    exact e1
  · have := b1 a
    simp only at this
    rw [this, b0]
    by_cases r1 : InBank s.cfg (activeDims s.active) true a
    · rw [if_pos r1, if_pos (.inr r1)]
    · rw [if_neg r1]
      by_cases r0 : InBank s.cfg (activeDims s.active) false a
      · rw [if_pos r0, if_pos (.inl r0)]
      · rw [if_neg r0, if_neg (by tauto)]

/-- `ConfigApply` after the checks have passed (R106, R108): it never stops partway. -/
theorem configApply_spec {s : State} (h : checkGeom s.cfg (stagedDims s.staged) = .ok) :
    ∃ m, configApply s = .ok { s with
        active := activate s.staged, mem := m, front := false, row := 0, lineEn := true,
        lines := ⟨false, false, false, false, 0⟩, trace := s.trace ++ [.linesInit], init := true,
        tickPeriod := defaultPeriod s.cfg, timerCnt := 0, pend := false, tie := true, err := 0 } ∧
      (∀ a, byteAt { s with mem := m } a =
        if InBank s.cfg (stagedDims s.staged) false a ∨ InBank s.cfg (stagedDims s.staged) true a then 0#8
        else byteAt s a) ∧
      (s.MemInv → State.MemInv { s with mem := m }) := by
  have hc : Checked s.cfg (activeDims (activate s.staged)) := by
    rw [activeDims_activate]; exact (checkGeom_ok_iff _ _).1 h
  obtain ⟨m, e, b, i⟩ := zeroBanks_spec (s := { s with active := activate s.staged }) hc
  refine ⟨m, ?_, ?_, ?_⟩
  · simp only [configApply, e]
    rfl
  · simp only [activeDims_activate] at b
    exact b
  · intro hm
    exact memInv_congr (i (memInv_congr hm rfl rfl)) rfl rfl

/-- The copy of SWAP on a configured block (R143). -/
theorem copyFrontToBack_spec {s : State} (h : Checked s.cfg (activeDims s.active)) :
    ∃ m, copyFrontToBack s = .ok { s with mem := m } ∧
      (∀ a, byteAt { s with mem := m } a =
        if InBank s.cfg (activeDims s.active) (!s.front) a then
          byteAt s (bankBase s.cfg s.front + (a - bankBase s.cfg (!s.front)))
        else byteAt s a) ∧
      (s.MemInv → State.MemInv { s with mem := m }) :=
  copyBytes_spec _ _ _ s (h.bank_range s.front) (h.bank_range (!s.front)) (h.banks_apart s.front)

/-- The pixel write of SETPIXEL on a configured block, for a coordinate in range (R122). -/
theorem drawPixel_spec {s : State} (h : Checked s.cfg (activeDims s.active)) {x y : Int}
    (hr : inRange (activeDims s.active) x y = true) (on : Bool) :
    drawPixel x y on s = .ok { s with
      mem := Memory.put s.mem (pixAddr s.cfg (activeDims s.active) (!s.front) x y)
        (drawBit (byteAt s (pixAddr s.cfg (activeDims s.active) (!s.front) x y)) (pixMask x.toNat) on) } := by
  have hlt : pixAddr s.cfg (activeDims s.active) (!s.front) x y < spaceSize s.cfg :=
    h.bank_fits (!s.front) (h.pixOff_lt hr)
  simp only [drawPixel, backBank]
  rw [memRead_ok hlt]
  exact memWrite_ok _ hlt

/-- The pixel read of GETPIXEL on a configured block, for a coordinate in range (R128). -/
theorem readPixel_spec {s : State} (h : Checked s.cfg (activeDims s.active)) {x y : Int}
    (hr : inRange (activeDims s.active) x y = true) :
    readPixel x y s = .ok (pixelAt s (!s.front) x.toNat y.toNat) := by
  have hlt : pixAddr s.cfg (activeDims s.active) (!s.front) x y < spaceSize s.cfg :=
    h.bank_fits (!s.front) (h.pixOff_lt hr)
  simp only [readPixel, backBank]
  rw [memRead_ok hlt]
  rfl

/-- The byte write of SETPIXEL changes one bit (R122). -/
theorem drawBit_bit (b : Byte) (x : Nat) (on : Bool) (i : Nat) (hi : i < 8) :
    (drawBit b (pixMask x) on).getLsbD i = if i = 7 - x % 8 then on else b.getLsbD i := by
  have hx : x &&& 7 = x % 8 := Nat.and_two_pow_sub_one_eq_mod x 3
  have hlt : x % 8 < 8 := Nat.mod_lt _ (by decide)
  have key : ∀ (k : Fin 8) (i : Fin 8) (on : Bool) (b : BitVec 8),
      (drawBit b (0x80#8 >>> k.val) on).getLsbD i.val = if i.val = 7 - k.val then on else b.getLsbD i.val := by
    decide +kernel
  simpa [pixMask, hx] using key ⟨x % 8, hlt⟩ ⟨i, hi⟩ on b

/-- FILL's loop on a configured block (R124). -/
theorem fillBack_spec {s : State} (h : Checked s.cfg (activeDims s.active)) (v : Byte) :
    ∃ m, fillBytes (bankBase s.cfg (backBank s)) v (bufferSize (activeDims s.active)) s = .ok { s with mem := m } ∧
      (∀ a, byteAt { s with mem := m } a =
        if InBank s.cfg (activeDims s.active) (!s.front) a then v else byteAt s a) ∧
      (s.MemInv → State.MemInv { s with mem := m }) := by
  obtain ⟨m, e, b, i, _, _⟩ := fillBytes_spec (bankBase s.cfg (backBank s)) v _ s (h.bank_range (backBank s))
  exact ⟨m, e, b, i⟩

/-- Two coordinates in range share an address and a mask only when they are the same pixel (R62). -/
theorem pixel_inj {s : State} (h : Checked s.cfg (activeDims s.active)) {x y x' y' : Nat}
    (hx : x < totalWidth (activeDims s.active)) (hx' : x' < totalWidth (activeDims s.active))
    (ho : pixOff (activeDims s.active) x y = pixOff (activeDims s.active) x' y') (hm : x % 8 = x' % 8) :
    x = x' ∧ y = y' := by
  have h8 := h.eightBytes
  simp only [pixOff, Nat.shiftRight_eq_div_pow] at ho
  have e1 : x / 2 ^ 3 < bytesPerRow (activeDims s.active) := by omega
  have e2 : x' / 2 ^ 3 < bytesPerRow (activeDims s.active) := by omega
  have key : ∀ q, (y * bytesPerRow (activeDims s.active) + x / 2 ^ 3) = q → q / bytesPerRow (activeDims s.active) = y := by
    rintro q rfl
    rw [Nat.mul_comm, Nat.mul_add_div h.bytesPos, Nat.div_eq_of_lt e1, Nat.add_zero]
  have key' : ∀ q, (y' * bytesPerRow (activeDims s.active) + x' / 2 ^ 3) = q →
      q / bytesPerRow (activeDims s.active) = y' := by
    rintro q rfl
    rw [Nat.mul_comm, Nat.mul_add_div h.bytesPos, Nat.div_eq_of_lt e2, Nat.add_zero]
  have hy : y = y' := by rw [← key _ ho, key' _ rfl]
  subst hy
  omega

/-! ### The meanings on a configured block, and on one that is not -/

theorem execSetpixel_unconfigured {s : State} (hi : s.init = false) (x y : Int) (on : Bool) :
    execSetpixel x y on s = .next (raiseCmdError .notInit s) := by
  rw [execSetpixel, if_neg (by rw [hi]; decide)]

theorem execSetpixel_outside {s : State} (hi : s.init = true) {x y : Int} (hr : ¬ inRange (activeDims s.active) x y = true)
    (on : Bool) : execSetpixel x y on s = .next (succeed s) := by
  rw [execSetpixel, if_pos hi, if_neg hr]

theorem execSetpixel_inside {s : State} (hi : s.init = true) (h : Checked s.cfg (activeDims s.active)) {x y : Int}
    (hr : inRange (activeDims s.active) x y = true) (on : Bool) :
    let a := pixAddr s.cfg (activeDims s.active) (!s.front) x y
    execSetpixel x y on s =
      .next (succeed { s with mem := Memory.put s.mem a (drawBit (byteAt s a) (pixMask x.toNat) on) }) := by
  rw [execSetpixel, if_pos hi, if_pos hr, drawPixel_spec h hr on]
  rfl

theorem execFill_unconfigured {s : State} (hi : s.init = false) (on : Bool) :
    execFill on s = .next (raiseCmdError .notInit s) := by
  rw [execFill, if_neg (by rw [hi]; decide)]

theorem execFill_configured {s : State} (hi : s.init = true) (h : Checked s.cfg (activeDims s.active)) (on : Bool) :
    ∃ m, execFill on s = .next (succeed { s with mem := m }) ∧
      (∀ a, byteAt { s with mem := m } a =
        if InBank s.cfg (activeDims s.active) (!s.front) a then (if on then 0xFF#8 else 0x00#8) else byteAt s a) ∧
      (s.MemInv → State.MemInv { s with mem := m }) := by
  obtain ⟨m, e, b, w⟩ := fillBack_spec h (if on then 0xFF#8 else 0x00#8)
  refine ⟨m, ?_, b, w⟩
  rw [execFill, if_pos hi, e]
  rfl

theorem execGetpixel_unconfigured {s : State} (hi : s.init = false) (x y : Int) :
    execGetpixel x y s = .next (raiseCmdError .notInit s) := by
  rw [execGetpixel, if_neg (by rw [hi]; decide)]

theorem execGetpixel_outside {s : State} (hi : s.init = true) {x y : Int} (hr : ¬ inRange (activeDims s.active) x y = true) :
    execGetpixel x y s = .next (succeed { s with pix := false }) := by
  rw [execGetpixel, if_pos hi, if_neg hr]

theorem execGetpixel_inside {s : State} (hi : s.init = true) (h : Checked s.cfg (activeDims s.active)) {x y : Int}
    (hr : inRange (activeDims s.active) x y = true) :
    execGetpixel x y s = .next (succeed { s with pix := pixelAt s (!s.front) x.toNat y.toNat }) := by
  rw [execGetpixel, if_pos hi, if_pos hr, readPixel_spec h hr]
  rfl

theorem execSwap_unconfigured {s : State} (hi : s.init = false) (copy : Bool) :
    execSwap copy s = .next (raiseCmdError .notInit s) := by
  rw [execSwap, if_neg (by rw [hi]; decide)]

theorem execSwap_exchange {s : State} (hi : s.init = true) : execSwap false s = .next (succeed (exchangeRoles s)) := by
  rw [execSwap, if_pos hi]
  rfl

theorem execSwap_copy {s : State} (hi : s.init = true) (h : Checked s.cfg (activeDims s.active)) :
    ∃ m, execSwap true s = .next (succeed { exchangeRoles s with mem := m }) ∧
      (∀ a, byteAt { s with mem := m } a =
        if InBank s.cfg (activeDims s.active) s.front a then
          byteAt s (bankBase s.cfg (!s.front) + (a - bankBase s.cfg s.front))
        else byteAt s a) ∧
      (s.MemInv → State.MemInv { s with mem := m }) := by
  obtain ⟨m, e, b, w⟩ := copyFrontToBack_spec (s := exchangeRoles s) h
  refine ⟨m, ?_, ?_, fun hm => memInv_congr (w (memInv_congr hm rfl rfl)) rfl rfl⟩
  · rw [execSwap, if_pos hi, if_pos rfl, e]
    rfl
  · intro a
    have := b a
    simp only [exchangeRoles, Bool.not_not] at this
    exact this

theorem execConfigure_passes {s : State} (h : checkGeom s.cfg (stagedDims s.staged) = .ok) :
    execConfigure s = answer (configApply s) := by
  simp only [execConfigure, h]

theorem execConfigure_fails {s : State} (h : checkGeom s.cfg (stagedDims s.staged) ≠ .ok) :
    execConfigure s = .next (configFail (checkGeom s.cfg (stagedDims s.staged)) s) := by
  unfold execConfigure
  split
  · rename_i h'; exact absurd h' h
  · rfl

/-! ### Frames, wherever the addresses lie -/

/-- A command that answers a state wrote `ERR <- 0` last, on the state its memory operations left. -/
theorem answer_succeed {x : Except Fault State} {t : State} (h : answer (x.map succeed) = .next t) :
    ∃ u, x = .ok u ∧ t = succeed u := by
  cases x with
  | error f => cases h
  | ok u => cases h; exact ⟨u, rfl, rfl⟩

theorem drawPixel_frame {x y : Int} {on : Bool} {s t : State} (h : drawPixel x y on s = .ok t) : t = { s with mem := t.mem } := by
  simp only [drawPixel] at h
  split at h
  · cases h
  · exact memWrite_frame h

/-! ### What each command can do -/

/-- What a command that answers a state can have written, over all states (the "Status written" and pseudocode of its rule, R45):
every field that an equation does not name is as it was. -/
def Writes (s t : State) : Instr → Prop
  | .nop => t = succeed s
  | .setgeom0 _ _ | .setgeom1 _ _ _ => t = succeed { s with staged := t.staged }
  | .configure =>
      (t = succeed { s with
          active := activate s.staged, mem := t.mem, front := false, row := 0, lineEn := true,
          lines := ⟨false, false, false, false, 0⟩, trace := s.trace ++ [.linesInit], init := true,
          tickPeriod := defaultPeriod s.cfg, timerCnt := 0, pend := false, tie := true }) ∨
        ∃ code, t = configFail code s
  | .setpixel _ _ _ | .fill _ => t = succeed { s with mem := t.mem } ∨ t = raiseCmdError .notInit s
  | .setbright v => t = succeed { s with
      bright := BitVec.ofNat 8 v, duty := s.cfg.gamma (BitVec.ofNat 8 v),
      dutyWrites := s.dutyWrites ++ [s.cfg.gamma (BitVec.ofNat 8 v)] }
  | .swap copy => (t = succeed { s with mem := t.mem, front := !s.front } ∧ (copy = false → t.mem = s.mem)) ∨
      t = raiseCmdError .notInit s
  | .start f => t = succeed { s with
      tickPeriod := BitVec.ofNat 24 (period s.cfg f), timerCnt := 0, pend := false, tie := true } ∨
      t = raiseCmdError .badFreq s
  | .stop => t = succeed { s with tie := false, pend := false }
  | .getpixel _ _ => t = succeed { s with pix := t.pix } ∨ t = raiseCmdError .notInit s

/-- The inversion of `exec`: a command that answers a state wrote no more than its rule says. -/
theorem exec_writes {s t : State} {i : Instr} (h : exec i s = .next t) : Writes s t i := by
  cases i with
  | nop => cases h; rfl
  | setgeom0 width height => cases h; rfl
  | setgeom1 chain scan lanes => cases h; rfl
  | configure =>
    change execConfigure s = .next t at h
    by_cases hc : checkGeom s.cfg (stagedDims s.staged) = .ok
    · obtain ⟨m, e, -, -⟩ := configApply_spec hc
      rw [execConfigure_passes hc, e] at h
      cases h
      exact .inl rfl
    · rw [execConfigure_fails hc] at h
      cases h
      exact .inr ⟨_, rfl⟩
  | setpixel x y on =>
    change execSetpixel x y on s = .next t at h
    unfold execSetpixel at h
    split_ifs at h
    · obtain ⟨u, hu, rfl⟩ := answer_succeed h
      rw [drawPixel_frame hu]
      exact .inl rfl
    · cases h
      exact .inl rfl
    · cases h
      exact .inr rfl
  | fill on =>
    change execFill on s = .next t at h
    unfold execFill at h
    split at h
    · obtain ⟨u, hu, rfl⟩ := answer_succeed h
      rw [fillBytes_frame hu]
      exact .inl rfl
    · cases h
      exact .inr rfl
  | setbright value => cases h; rfl
  | swap copy =>
    change execSwap copy s = .next t at h
    unfold execSwap at h
    split_ifs at h with hi hc
    · obtain ⟨u, hu, rfl⟩ := answer_succeed h
      rw [copyBytes_frame hu]
      exact .inl ⟨rfl, fun e => by rw [e] at hc; cases hc⟩
    · cases h
      exact .inl ⟨rfl, fun _ => rfl⟩
    · cases h
      exact .inr rfl
  | start freq =>
    change execStart freq s = .next t at h
    unfold execStart at h
    split at h <;> cases h
    · exact .inl rfl
    · exact .inr rfl
  | stop => cases h; rfl
  | getpixel x y =>
    change execGetpixel x y s = .next t at h
    unfold execGetpixel at h
    split_ifs at h
    · cases hr : readPixel x y s with
      | error f => rw [hr] at h; cases h
      | ok v => rw [hr] at h; cases h; exact .inl rfl
    · cases h
      exact .inl rfl
    · cases h
      exact .inr rfl

/-- Every result code is a number of R220. -/
theorem errNumber_le (code : ErrCode) : (errNumber code).toNat ≤ 9 := by cases code <;> decide

end Sys2Proof.Machine
end

