-- ==== Sys2Proof/Laws/Clock.lean ====
section
/-! SUPPORT. One step: where it takes its input from, what a block clock does, and what a START, a turn of the scan engine and
a run of several steps are. -/

namespace Sys2Proof.Machine

/-! ### The step -/

theorem step_cons {s : State} {i : Input} {rest : List Input} (h : s.agenda = i :: rest) :
    step s = runInput i { s with agenda := rest } := by
  simp only [step, stepBlock, h]

theorem step_nil {s : State} (h : s.agenda = []) : step s = runAlone s := by
  simp only [step, stepBlock, h]

/-- A run of m and then n steps. -/
theorem runSteps_add (m n : Nat) {s t : State} (h : runSteps m s = .next t) : runSteps (m + n) s = runSteps n t := by
  induction m generalizing s with
  | zero => cases h; rw [Nat.zero_add]
  | succ m ih =>
    rw [Nat.add_right_comm]
    simp only [runSteps] at h ⊢
    cases hs : step s with
    | next u => rw [hs] at h; exact ih h
    | fault f => rw [hs] at h; cases h
    | refused r => rw [hs] at h; cases h

/-! ### The tick timer and the PWM counter -/

theorem timerClock_disabled {s : State} (h : s.tie = false) : timerClock s = s := by
  rw [timerClock, if_neg (by rw [h]; decide)]

theorem timerClock_reload {s : State} (h : s.tie = true) (hc : s.tickPeriod.toNat ≤ s.timerCnt.toNat + 1) :
    timerClock s = { s with timerCnt := 0, pend := true } := by
  rw [timerClock, if_pos h, if_pos hc]

theorem timerClock_count {s : State} (h : s.tie = true) (hc : s.timerCnt.toNat + 1 < s.tickPeriod.toNat) :
    timerClock s = { s with timerCnt := s.timerCnt + 1 } := by
  rw [timerClock, if_pos h, if_neg (by omega)]

/-- The count goes up without wrapping (R157). -/
theorem timerCnt_succ {s : State} (hc : s.timerCnt.toNat + 1 < s.tickPeriod.toNat) :
    (s.timerCnt + 1).toNat = s.timerCnt.toNat + 1 := by
  have := s.tickPeriod.isLt
  rw [BitVec.toNat_add]
  show (s.timerCnt.toNat + 1) % 2 ^ 24 = _
  omega

/-- The timer's clock moves the count and `PEND`, and nothing else. -/
theorem timerClock_frame (s : State) :
    timerClock s = { s with timerCnt := (timerClock s).timerCnt, pend := (timerClock s).pend } := by
  unfold timerClock
  split
  · split <;> rfl
  · rfl

theorem pwmClock_wait {s : State} (h : s.pwmPhase + 1 < s.cfg.pwmPrescale) :
    pwmClock s = { s with pwmPhase := s.pwmPhase + 1 } := by
  rw [pwmClock, if_neg (by omega)]

theorem pwmClock_advance {s : State} (h : s.cfg.pwmPrescale ≤ s.pwmPhase + 1) :
    pwmClock s = { s with pwmPhase := 0, pwmCnt := s.pwmCnt + 1 } := by
  rw [pwmClock, if_pos h]

/-- The PWM's clock moves its counter and its prescaler, and nothing else. -/
theorem pwmClock_frame (s : State) :
    pwmClock s = { s with pwmPhase := (pwmClock s).pwmPhase, pwmCnt := (pwmClock s).pwmCnt } := by
  unfold pwmClock
  split <;> rfl

/-- A block clock moves the two counters, the prescaler and `PEND`, and nothing else. -/
theorem blockClock_frame (s : State) :
    blockClock s = { s with
      timerCnt := (timerClock s).timerCnt, pend := (timerClock s).pend,
      pwmPhase := (pwmClock (timerClock s)).pwmPhase, pwmCnt := (pwmClock (timerClock s)).pwmCnt } := by
  rw [blockClock, pwmClock_frame, timerClock_frame s]

/-! ### START -/

theorem execStart_valid {s : State} {f : Nat} (h : freqValid s.cfg f = true) :
    execStart f s = .next (succeed { s with
      tickPeriod := BitVec.ofNat 24 (period s.cfg f), timerCnt := 0, pend := false, tie := true }) := by
  rw [execStart, if_pos h]

theorem execStart_invalid {s : State} {f : Nat} (h : ¬ freqValid s.cfg f = true) :
    execStart f s = .next (raiseCmdError .badFreq s) := by
  rw [execStart, if_neg h]

/-! ### The scan engine's turn -/

/-- A turn with nothing to serve (R159). -/
theorem serveTick_idle {s : State} (h : s.pend = false ∨ s.tie = false) : serveTick s = .next s := by
  rw [serveTick, if_neg]
  rcases h with h | h <;> simp [h]

/-- A turn with a tick to serve (R159). -/
theorem serveTick_pending {s : State} (hp : s.pend = true) (ht : s.tie = true) : serveTick s = runTick s := by
  rw [serveTick, if_pos (by rw [hp, ht]; rfl)]

end Sys2Proof.Machine
end

