-- ==== Sys2Proof/Laws/Config.lean ====
section
/-! SUPPORT. Elaboration accepts exactly the valid parameter sets (R9), and what a valid table gives (R181). -/

namespace Sys2Proof

/-- The diagnostic of R9 is absent exactly when every parameter is in its range. -/
theorem elabFailure_none_iff (p : Params) : p.elabFailure = none ↔ p.Valid := by
  constructor
  · intro h
    unfold Params.elabFailure at h
    repeat' (split at h; · cases h)
    rename_i h1 h2 h3 h4 h5 h6 h7 h8 h9 h10 h11
    simp only [not_not] at h1 h2 h3 h4 h5 h6 h7 h8 h9 h10 h11
    exact ⟨h1, h2, h3, h4, h5, h6, h7, h8, h9, h10.1, h10.2, h11⟩
  · rintro ⟨h1, h2, h3, h4, h5, h6, h7, h8, h9, h10, h11, h12⟩
    unfold Params.elabFailure
    rw [if_neg (not_not.2 h1), if_neg (not_not.2 h2), if_neg (not_not.2 h3), if_neg (not_not.2 h4), if_neg (not_not.2 h5),
      if_neg (not_not.2 h6), if_neg (not_not.2 h7), if_neg (not_not.2 h8), if_neg (not_not.2 h9),
      if_neg (not_not.2 ⟨h10, h11⟩), if_neg (not_not.2 h12)]

/-- R181 (c): the last entry is the table's minimum. -/
theorem gamma_last_min {p : Params} (h : p.Valid) (v : BitVec 8) : p.gamma 255#8 ≤ p.gamma v := by
  by_cases hv : v = 255#8
  · subst hv; rw [BitVec.le_def]
  · apply h.gammaMono
    rw [BitVec.lt_def]
    have h1 := v.isLt
    have h2 : v.toNat ≠ 255 := fun e => hv (BitVec.eq_of_toNat_eq e)
    show v.toNat < 255
    omega

/-- A valid block's flags are the flags of the supported variant that `PORT_VARIANT` names (R201). -/
theorem variant_supported {p : Params} (h : p.Valid) : p.variant ∈ p.supported := by
  rw [Params.variant, List.getD_eq_getElem?_getD, List.getElem?_eq_getElem h.portSupported]
  exact List.getElem_mem _

end Sys2Proof
end

