-- ==== Sys2Proof/Laws/Encoding.lean ====
section
/-! SUPPORT. Words as numbers: what concatenation, field extraction and the row tests of R84 are in arithmetic, and the decoder
as one chain of comparisons, so that questions about encodings go to linear arithmetic. -/

namespace Sys2Proof

theorem toNat_append_add {m n : Nat} (x : BitVec m) (y : BitVec n) : (x ++ y).toNat = x.toNat * 2 ^ n + y.toNat := by
  rw [BitVec.toNat_append, ← Nat.shiftLeft_add_eq_or_of_lt y.isLt, Nat.shiftLeft_eq]

theorem toNat_field (w : Word) (start len : Nat) : (w.extractLsb' start len).toNat = w.toNat / 2 ^ start % 2 ^ len := by
  rw [BitVec.extractLsb'_toNat, Nat.shiftRight_eq_div_pow]

theorem bit_field (w : Word) (k : Nat) : w.getLsbD k = decide (w.toNat / 2 ^ k % 2 = 1) := by
  rw [BitVec.getLsbD, Nat.testBit_eq_decide_div_mod_eq]

/-- A row whose mask covers the bits from k up matches exactly the words with the pattern's number above bit k. -/
theorem mask_test (w p : Word) (k : Nat) (hk : k ≤ 32) (hp : p.toNat % 2 ^ k = 0) :
    (w &&& (BitVec.allOnes 32 <<< k) == p) = decide (w.toNat / 2 ^ k = p.toNat / 2 ^ k) := by
  have hand : (w &&& (BitVec.allOnes 32 <<< k)).toNat = w.toNat / 2 ^ k * 2 ^ k := by
    apply Nat.eq_of_testBit_eq
    intro i
    rw [← BitVec.getLsbD, ← Nat.shiftLeft_eq, Nat.testBit_shiftLeft, Nat.testBit_div_two_pow]
    by_cases hi : k ≤ i
    · by_cases h32 : i < 32
      · rw [BitVec.getLsbD_and, BitVec.getLsbD_shiftLeft, BitVec.getLsbD_allOnes]
        simp [hi, h32, BitVec.getLsbD, show i - k < 32 by omega, show ¬ i < k by omega]
      · have : w.toNat.testBit i = false := by
          apply Nat.testBit_lt_two_pow
          exact lt_of_lt_of_le w.isLt (Nat.pow_le_pow_right (by decide) (by omega))
        simp [hi, h32, Nat.sub_add_cancel hi, this]
    · simp [hi, show i < k by omega]
  have hpk : p.toNat / 2 ^ k * 2 ^ k = p.toNat := Nat.div_mul_cancel (Nat.dvd_of_mod_eq_zero hp)
  have hpos : 0 < 2 ^ k := Nat.pow_pos (by decide)
  rw [Bool.eq_iff_iff]
  simp only [beq_iff_eq, decide_eq_true_eq]
  constructor
  · intro h
    have := congrArg BitVec.toNat h
    rw [hand] at this
    exact (Nat.div_eq_of_eq_mul_left hpos this.symm).symm
  · intro h
    apply BitVec.eq_of_toNat_eq
    rw [hand, h, hpk]

/-- The column of a word, by its number. -/
theorem fieldX_eq (w : Word) :
    fieldX w = if w.toNat % 2 ^ 14 < 2 ^ 13 then (w.toNat % 2 ^ 14 : Int) else (w.toNat % 2 ^ 14 : Int) - 2 ^ 14 := by
  rw [fieldX, BitVec.toInt_eq_toNat_cond, toNat_field]
  simp only [Nat.pow_zero, Nat.div_one]
  split <;> split <;> omega

/-- The row of a word, by its number. -/
theorem fieldY_eq (w : Word) :
    fieldY w = if w.toNat / 2 ^ 14 % 2 ^ 13 < 2 ^ 12 then (w.toNat / 2 ^ 14 % 2 ^ 13 : Int)
      else (w.toNat / 2 ^ 14 % 2 ^ 13 : Int) - 2 ^ 13 := by
  rw [fieldY, BitVec.toInt_eq_toNat_cond, toNat_field]
  split <;> split <;> omega

/-- One row of the decoder's search (R86). -/
theorem row_step {w : Word} {r : OpRow} {rest : Option OpRow} {a b : Except Illegal Instr} (c : Prop) [Decidable c]
    (hit : Except.ok (r.fields w) = a)
    (miss : (match rest with
      | some r => Except.ok (r.fields w)
      | none => Except.error (illegalReason w)) = b) :
    (match (match decide c with
        | true => some r
        | false => rest) with
      | some r => Except.ok (r.fields w)
      | none => Except.error (illegalReason w)) = if c then a else b := by
  by_cases h : c
  · simp only [h, decide_true, if_true]; exact hit
  · simp only [h, decide_false, if_false]; exact miss

/-- The decoder as comparisons of the word's number (R84, R86). -/
theorem decode_eq (w : Word) : decode w =
    if w.toNat = 0 then .ok .nop
    else if w.toNat / 2 ^ 25 = 8 then .ok (.setgeom0 (w.toNat % 2 ^ 13) (w.toNat / 2 ^ 13 % 2 ^ 12))
    else if w.toNat / 2 ^ 17 = 4096 then
      .ok (.setgeom1 (w.toNat % 2 ^ 8) (w.toNat / 2 ^ 8 % 2 ^ 8) (w.toNat / 2 ^ 16 % 2 ^ 1 + 1))
    else if w.toNat = 805306368 then .ok .configure
    else if w.toNat / 2 ^ 28 = 4 then .ok (.setpixel (fieldX w) (fieldY w) (decide (w.toNat / 2 ^ 27 % 2 = 1)))
    else if w.toNat / 2 = 671088640 then .ok (.fill (decide (w.toNat % 2 = 1)))
    else if w.toNat / 2 ^ 8 = 6291456 then .ok (.setbright (w.toNat % 2 ^ 8))
    else if w.toNat / 2 = 939524096 then .ok (.swap (decide (w.toNat % 2 = 1)))
    else if w.toNat / 2 ^ 20 = 2048 then .ok (.start (w.toNat % 2 ^ 20))
    else if w.toNat = 2415919104 then .ok .stop
    else if w.toNat / 2 ^ 27 = 20 then .ok (.getpixel (fieldX w) (fieldY w))
    else .error (illegalReason w) := by
  have m0 : (w &&& 0xFFFFFFFF#32 == 0x00000000#32) = decide (w.toNat = 0) := by
    simpa using mask_test w 0x00000000#32 0 (by decide) (by decide)
  have m1 : (w &&& 0xFE000000#32 == 0x10000000#32) = decide (w.toNat / 2 ^ 25 = 8) :=
    mask_test w 0x10000000#32 25 (by decide) (by decide)
  have m2 : (w &&& 0xFFFE0000#32 == 0x20000000#32) = decide (w.toNat / 2 ^ 17 = 4096) :=
    mask_test w 0x20000000#32 17 (by decide) (by decide)
  have m3 : (w &&& 0xFFFFFFFF#32 == 0x30000000#32) = decide (w.toNat = 805306368) := by
    simpa using mask_test w 0x30000000#32 0 (by decide) (by decide)
  have m4 : (w &&& 0xF0000000#32 == 0x40000000#32) = decide (w.toNat / 2 ^ 28 = 4) :=
    mask_test w 0x40000000#32 28 (by decide) (by decide)
  have m5 : (w &&& 0xFFFFFFFE#32 == 0x50000000#32) = decide (w.toNat / 2 = 671088640) :=
    mask_test w 0x50000000#32 1 (by decide) (by decide)
  have m6 : (w &&& 0xFFFFFF00#32 == 0x60000000#32) = decide (w.toNat / 2 ^ 8 = 6291456) :=
    mask_test w 0x60000000#32 8 (by decide) (by decide)
  have m7 : (w &&& 0xFFFFFFFE#32 == 0x70000000#32) = decide (w.toNat / 2 = 939524096) :=
    mask_test w 0x70000000#32 1 (by decide) (by decide)
  have m8 : (w &&& 0xFFF00000#32 == 0x80000000#32) = decide (w.toNat / 2 ^ 20 = 2048) :=
    mask_test w 0x80000000#32 20 (by decide) (by decide)
  have m9 : (w &&& 0xFFFFFFFF#32 == 0x90000000#32) = decide (w.toNat = 2415919104) := by
    simpa using mask_test w 0x90000000#32 0 (by decide) (by decide)
  have m10 : (w &&& 0xF8000000#32 == 0xA0000000#32) = decide (w.toNat / 2 ^ 27 = 20) :=
    mask_test w 0xA0000000#32 27 (by decide) (by decide)
  simp only [decode, opcodeMap, List.find?_cons, List.find?_nil, m0, m1, m2, m3, m4, m5, m6, m7, m8, m9, m10]
  refine row_step (w.toNat = 0) ?_ ?_
  · rfl
  refine row_step (w.toNat / 2 ^ 25 = 8) ?_ ?_
  · simp only [toNat_field, Nat.pow_zero, Nat.div_one]
  refine row_step (w.toNat / 2 ^ 17 = 4096) ?_ ?_
  · simp only [toNat_field, Nat.pow_zero, Nat.div_one]
  refine row_step (w.toNat = 805306368) ?_ ?_
  · rfl
  refine row_step (w.toNat / 2 ^ 28 = 4) ?_ ?_
  · simp only [bit_field]
  refine row_step (w.toNat / 2 = 671088640) ?_ ?_
  · simp only [bit_field, Nat.pow_zero, Nat.div_one]
  refine row_step (w.toNat / 2 ^ 8 = 6291456) ?_ ?_
  · simp only [toNat_field, Nat.pow_zero, Nat.div_one]
  refine row_step (w.toNat / 2 = 939524096) ?_ ?_
  · simp only [bit_field, Nat.pow_zero, Nat.div_one]
  refine row_step (w.toNat / 2 ^ 20 = 2048) ?_ ?_
  · simp only [toNat_field, Nat.pow_zero, Nat.div_one]
  refine row_step (w.toNat = 2415919104) ?_ ?_
  · rfl
  refine row_step (w.toNat / 2 ^ 27 = 20) ?_ ?_
  · rfl
  rfl

/-- One comparison of `decode_eq`. -/
theorem ite_ok {c : Prop} [Decidable c] {a i : Instr} {rest : Except Illegal Instr}
    (h : (if c then .ok a else rest) = Except.ok i) : (c ∧ i = a) ∨ rest = .ok i := by
  by_cases hc : c
  · rw [if_pos hc] at h
    exact .inl ⟨hc, by cases h; rfl⟩
  · rw [if_neg hc] at h
    exact .inr h

/-- What a decoded word is: its number lies in the range of one row of R84, and its fields are that row's (R82-R84). The ranges
are apart, so the converse holds as well. -/
theorem decode_ok_iff {w : Word} {i : Instr} : decode w = .ok i ↔
    (w.toNat = 0 ∧ i = .nop) ∨
    (w.toNat / 2 ^ 25 = 8 ∧ i = .setgeom0 (w.toNat % 2 ^ 13) (w.toNat / 2 ^ 13 % 2 ^ 12)) ∨
    (w.toNat / 2 ^ 17 = 4096 ∧ i = .setgeom1 (w.toNat % 2 ^ 8) (w.toNat / 2 ^ 8 % 2 ^ 8) (w.toNat / 2 ^ 16 % 2 ^ 1 + 1)) ∨
    (w.toNat = 805306368 ∧ i = .configure) ∨
    (w.toNat / 2 ^ 28 = 4 ∧ i = .setpixel (fieldX w) (fieldY w) (decide (w.toNat / 2 ^ 27 % 2 = 1))) ∨
    (w.toNat / 2 = 671088640 ∧ i = .fill (decide (w.toNat % 2 = 1))) ∨
    (w.toNat / 2 ^ 8 = 6291456 ∧ i = .setbright (w.toNat % 2 ^ 8)) ∨
    (w.toNat / 2 = 939524096 ∧ i = .swap (decide (w.toNat % 2 = 1))) ∨
    (w.toNat / 2 ^ 20 = 2048 ∧ i = .start (w.toNat % 2 ^ 20)) ∨
    (w.toNat = 2415919104 ∧ i = .stop) ∨
    (w.toNat / 2 ^ 27 = 20 ∧ i = .getpixel (fieldX w) (fieldY w)) := by
  rw [decode_eq]
  constructor
  · intro h
    iterate 10
      obtain hit | h := ite_ok h
      · exact .inl hit
      right
    obtain hit | h := ite_ok h
    · exact hit
    · cases h
  · intro h
    rcases h with h | h | h | h | h | h | h | h | h | h | h <;> obtain ⟨h, rfl⟩ := h <;>
      repeat first | refine (if_neg (by omega)).trans ?_ | exact if_pos h

/-- `mask_test` as a proposition. -/
theorem mask_iff {w p : Word} (k : Nat) (hk : k ≤ 32) (hp : p.toNat % 2 ^ k = 0) :
    w &&& (BitVec.allOnes 32 <<< k) = p ↔ w.toNat / 2 ^ k = p.toNat / 2 ^ k := by
  have := mask_test w p k hk hp
  rw [Bool.eq_iff_iff] at this
  simpa using this

/-- The word of the four lanes of a word is the word (R68). -/
theorem wordOfLanes_lanes (w : Word) :
    wordOfLanes (laneOfWord w 0) (laneOfWord w 1) (laneOfWord w 2) (laneOfWord w 3) = w := by
  apply BitVec.eq_of_toNat_eq
  have := w.isLt
  simp only [wordOfLanes, laneOfWord, toNat_append_add, toNat_field]
  omega

/-- Reading a word's bytes is reading the word (R68). -/
theorem decodeTableWord_eq (nbits n : Nat) : decodeTableWord nbits n = (decode (tableWord nbits n)).toOption := by
  simp only [decodeTableWord, decodeBytes, wordBytes, wordOfLanes_lanes]
  cases decode (tableWord nbits n) <;> rfl

/-- A 32-bit opcode-table word is the command word itself. -/
theorem tableWord_32 (w : Word) : tableWord 32 w.toNat = w := by
  apply BitVec.eq_of_toNat_eq
  have := w.isLt
  simp only [tableWord, BitVec.toNat_ofNat]
  omega

end Sys2Proof
end

