-- ==== Sys2Proof/Laws/PerInstr.lean ====
section
/-! SUPPORT. The family EncodedNumber: the word of each well-formed command is the number that R88's table writes for it. -/

namespace Sys2Proof

/-- The number that R88's column "encodes" writes for a command, the fields added up. -/
def assembledNumber : Instr → Nat
  | .nop => 0x00000000
  | .setgeom0 width height => 0x10000000 + height * 2 ^ 13 + width
  | .setgeom1 chain scan lanes => 0x20000000 + (lanes - 1) * 2 ^ 16 + scan * 2 ^ 8 + chain
  | .configure => 0x30000000
  | .setpixel x y on => 0x40000000 + on.toNat * 2 ^ 27 + (y % 2 ^ 13).toNat * 2 ^ 14 + (x % 2 ^ 14).toNat
  | .fill on => 0x50000000 + on.toNat
  | .setbright value => 0x60000000 + value
  | .swap copy => 0x70000000 + copy.toNat
  | .start freq => 0x80000000 + freq
  | .stop => 0x90000000
  | .getpixel x y => 0xA0000000 + (y % 2 ^ 13).toNat * 2 ^ 14 + (x % 2 ^ 14).toNat

namespace Laws.EncodedNumber

/-- The word of a well-formed command is R88's number. -/
def Statement (i : Instr) : Prop := i.wellFormed = true → (encode i).toNat = assembledNumber i

theorem nop : Statement .nop := fun _ => rfl

theorem setgeom0 (width height : Nat) : Statement (.setgeom0 width height) := by
  intro h
  simp only [Instr.wellFormed, Bool.and_eq_true, decide_eq_true_eq] at h
  simp only [encode, assembledNumber, toNat_append_add, BitVec.toNat_ofNat]
  omega

theorem setgeom1 (chain scan lanes : Nat) : Statement (.setgeom1 chain scan lanes) := by
  intro h
  simp only [Instr.wellFormed, Bool.and_eq_true, decide_eq_true_eq] at h
  simp only [encode, assembledNumber, toNat_append_add, BitVec.toNat_ofNat]
  omega

theorem configure : Statement .configure := fun _ => rfl

theorem setpixel (x y : Int) (on : Bool) : Statement (.setpixel x y on) := by
  intro _
  simp only [encode, assembledNumber, toNat_append_add, BitVec.toNat_ofInt, BitVec.toNat_ofBool, BitVec.toNat_ofNat]
  omega

theorem fill (on : Bool) : Statement (.fill on) := by
  intro _
  simp only [encode, assembledNumber, toNat_append_add, BitVec.toNat_ofBool, BitVec.toNat_ofNat]
  omega

theorem setbright (value : Nat) : Statement (.setbright value) := by
  intro h
  simp only [Instr.wellFormed, decide_eq_true_eq] at h
  simp only [encode, assembledNumber, toNat_append_add, BitVec.toNat_ofNat]
  omega

theorem swap (copy : Bool) : Statement (.swap copy) := by
  intro _
  simp only [encode, assembledNumber, toNat_append_add, BitVec.toNat_ofBool, BitVec.toNat_ofNat]
  omega

theorem start (freq : Nat) : Statement (.start freq) := by
  intro h
  simp only [Instr.wellFormed, decide_eq_true_eq] at h
  simp only [encode, assembledNumber, toNat_append_add, BitVec.toNat_ofNat]
  omega

theorem stop : Statement .stop := fun _ => rfl

theorem getpixel (x y : Int) : Statement (.getpixel x y) := by
  intro _
  simp only [encode, assembledNumber, toNat_append_add, BitVec.toNat_ofInt, BitVec.toNat_ofNat]
  omega

end Laws.EncodedNumber

end Sys2Proof
end

