-- ==== Sys2Proof/Tests/Slice0.lean ====
section
/-! SUPPORT. Tests with expected results from the spec (the vectors of 95_test_vectors.md and the examples of R90), and for each
obligation with hypotheses a concrete state and operands that meet them. -/

namespace Sys2Proof.Tests

open Sys2Proof Sys2Proof.Machine Sys2Proof.Statements

/-! ### The states -/

/-- The reset state with the parameter set PS1. -/
def fresh : State := State.resetWith exampleParams 0

/-- PS2 of 95_test_vectors.md: two latch pulses, the address after them. -/
def doubleLatch : Params := { exampleParams with supported := [⟨2, 4, 2, false⟩] }

/-- The panel of V5: 8×2, single-lane, S = 2, ticks at 2000 Hz, `SETBRIGHT 128` done, the banks {0x11, 0x22} and {0xA0, 0x05}. -/
def panel : State := { fresh with
  init := true, tie := true, bright := 128, duty := 127, lineEn := true, tickPeriod := 8000,
  staged := ⟨8, 2, 1, 2, 0⟩, active := ⟨8, 2, 1, 2, 1⟩,
  mem := [(0, 0x11), (1, 0x22), (1024, 0xA0), (1025, 0x05)] }

/-- The panel of P4 before its step 9: 8×4, dual-lane, S = 2, PS2, row 1 next, a tick pending. -/
def dualPanel : State := { fresh with
  cfg := doubleLatch, init := true, tie := true, pend := true, row := 1, front := true, bright := 255, duty := 0,
  lineEn := true, tickPeriod := 8000, staged := ⟨8, 4, 1, 2, 1⟩, active := ⟨8, 4, 1, 2, 2⟩,
  mem := [(0, 0x80), (1, 0x00), (2, 0x00), (3, 0x10), (1024, 0x80), (1025, 0x00), (1026, 0x00), (1027, 0x10)] }

/-- A geometry staged after reset (V2). -/
def staged (w h chain scan lanes : Nat) : State := { fresh with
  staged := ⟨BitVec.ofNat 13 w, BitVec.ofNat 12 h, BitVec.ofNat 8 chain, BitVec.ofNat 8 scan, BitVec.ofNat 1 (lanes - 1)⟩ }

/-- A field of the state that an outcome answers. -/
def after {α : Type} (o : Host.Outcome State Fault Refusal) (field : State → α) : Option α :=
  match o with
  | .next t => some (field t)
  | .fault _ => none
  | .refused _ => none

/-- The bytes that a state lists for the two banks of `panel`. -/
def banks (s : State) : List (Option Byte) := [0, 1, 1024, 1025].map fun a => Memory.cell? s.mem a

/-! ### Well-formedness: each check refuses (R88) -/

theorem test_wf_geometry_refused :
    (Instr.setgeom0 8192 4095).wellFormed = false ∧ (Instr.setgeom0 8191 4096).wellFormed = false ∧
    (Instr.setgeom1 256 255 2).wellFormed = false ∧ (Instr.setgeom1 255 256 2).wellFormed = false ∧
    (Instr.setgeom1 255 255 0).wellFormed = false ∧ (Instr.setgeom1 255 255 3).wellFormed = false := by decide

theorem test_wf_coordinates_refused :
    (Instr.setpixel 8192 0 true).wellFormed = false ∧ (Instr.setpixel (-8193) 0 true).wellFormed = false ∧
    (Instr.setpixel 0 4096 true).wellFormed = false ∧ (Instr.setpixel 0 (-4097) true).wellFormed = false ∧
    (Instr.getpixel 8192 0).wellFormed = false ∧ (Instr.getpixel (-8193) 0).wellFormed = false ∧
    (Instr.getpixel 0 4096).wellFormed = false ∧ (Instr.getpixel 0 (-4097)).wellFormed = false := by decide

theorem test_wf_values_refused :
    (Instr.setbright 256).wellFormed = false ∧ (Instr.start 1048576).wellFormed = false := by decide

theorem test_wf_maxima_accepted :
    (Instr.setgeom0 8191 4095).wellFormed = true ∧ (Instr.setgeom1 255 255 2).wellFormed = true ∧
    (Instr.setpixel 8191 4095 true).wellFormed = true ∧ (Instr.getpixel (-8192) (-4096)).wellFormed = true ∧
    (Instr.setbright 255).wellFormed = true ∧ (Instr.start 1048575).wellFormed = true := by decide

/-! ### Decoding: words written out from R81's layouts, and V1 -/

theorem test_decode_bits_plain :
    decode (0b0000#4 ++ 0b0000000000000000000000000000#28) = .ok .nop ∧
    decode (0b0011#4 ++ 0b0000000000000000000000000000#28) = .ok .configure ∧
    decode (0b1001#4 ++ 0b0000000000000000000000000000#28) = .ok .stop := by decide

/-- `FG`: 64 = 0b1000000, 32 = 0b100000. `FC`: lanes 2 is the bit 1, scan 16, chain 1. -/
theorem test_decode_bits_geometry :
    decode (0b0001#4 ++ 0b000#3 ++ 0b000000100000#12 ++ 0b0000001000000#13) = .ok (.setgeom0 64 32) ∧
    decode (0b0010#4 ++ 0b00000000000#11 ++ 0b1#1 ++ 0b00010000#8 ++ 0b00000001#8) = .ok (.setgeom1 1 16 2) := by decide

/-- `FP` and `FR`: y 1 = 0b0000000000001 and x -1 = fourteen ones. -/
theorem test_decode_bits_pixel :
    decode (0b0100#4 ++ 0b1#1 ++ 0b0000000000001#13 ++ 0b11111111111111#14) = .ok (.setpixel (-1) 1 true) ∧
    decode (0b1010#4 ++ 0b0#1 ++ 0b1111111111111#13 ++ 0b00000000000101#14) = .ok (.getpixel 5 (-1)) := by decide

theorem test_decode_bits_values :
    decode (0b0101#4 ++ 0b000000000000000000000000000#27 ++ 0b1#1) = .ok (.fill true) ∧
    decode (0b0110#4 ++ 0b00000000000000000000#20 ++ 0b10000000#8) = .ok (.setbright 128) ∧
    decode (0b0111#4 ++ 0b000000000000000000000000000#27 ++ 0b0#1) = .ok (.swap false) ∧
    decode (0b1000#4 ++ 0b00000000#8 ++ 0b00000000001111101000#20) = .ok (.start 1000) := by decide

/-- V1: the field maxima and minima. -/
theorem test_decode_extremes :
    decode 0x11FFFFFF#32 = .ok (.setgeom0 8191 4095) ∧ decode 0x2001FFFF#32 = .ok (.setgeom1 255 255 2) ∧
    decode 0x44002000#32 = .ok (.setpixel (-8192) (-4096) false) ∧ decode 0x4BFFDFFF#32 = .ok (.setpixel 8191 4095 true) ∧
    decode 0xA7FFFFFF#32 = .ok (.getpixel (-1) (-1)) ∧ decode 0x800FFFFF#32 = .ok (.start 1048575) := by decide

/-- V1: every illegal word of the table, by the name of what is wrong with it. -/
theorem test_decode_illegal :
    [0x00000001#32, 0x0FFFFFFF#32, 0x12000000#32, 0x1E000000#32, 0x20020000#32, 0x30000001#32, 0x50000002#32, 0x60000100#32,
      0x70000003#32, 0x80100000#32, 0x90000001#32, 0xA8000000#32].map decode =
    ["NOP", "NOP", "SETGEOM0", "SETGEOM0", "SETGEOM1", "CONFIGURE", "FILL", "SETBRIGHT", "SWAP", "START", "STOP",
      "GETPIXEL"].map (fun m => .error (.reservedBits m)) ∧
    [0xB0000000#32, 0xC0000000#32, 0xF0000000#32, 0xFFFFFFFF#32].map decode =
    [0xB#4, 0xC#4, 0xF#4, 0xF#4].map (fun o => .error (.reservedOpcode o)) := by decide

/-- The opcode table numbers a word's bits as the command word does; its bytes lie little-endian on the bus (R68). -/
theorem test_table_word :
    decodeTableWord 32 0x48003FFF = some (.setpixel (-1) 0 true) ∧ decodeTableWord 32 0x12000000 = none ∧
    wordBytes 0x48003FFF#32 = [0xFF#8, 0x3F#8, 0x00#8, 0x48#8] ∧
    decodeBytes [0xE8#8, 0x03#8, 0x00#8, 0x80#8, 0x55#8] = .ok (.start 1000, [0x55#8]) ∧
    decodeBytes [0x00#8, 0x00#8] = .error (.truncated 2) := by decide

/-! ### The assembler (R88, R89) -/

theorem test_assemble_line : assembleLine "SETPIXEL -1, 0, 1" = .ok [0x48003FFF#32] ∧
    assembleLine "START 0x3E8" = .ok [0x800003E8#32] := by decide +kernel

theorem test_assemble_begin :
    assembleLine "BEGIN 64, 32, 1, 16, 2" = .ok [0x10040040#32, 0x20011001#32, 0x30000000#32] := by decide +kernel

theorem test_assemble_refused : assembleLine "SETGEOM0 8192, 1" = .error .outOfRange ∧
    assembleLine "FILL 2" = .error .outOfRange ∧ assembleLine "SWAP" = .error (.operandCount 1) := by decide +kernel

/-! ### Elaboration (R9, R181) -/

theorem test_elab_accepts : exampleParams.elabFailure = none := (elabFailure_none_iff _).2 exampleParams_valid

theorem test_elab_period : Params.elabFailure { exampleParams with clkHz := 0 } = some .clkHz ∧
    Params.elabFailure { exampleParams with defaultTickHz := 16000001 } = some .defaultPeriod := by decide

theorem test_elab_variant : Params.elabFailure { exampleParams with portVariant := 1 } = some .unsupportedVariant ∧
    Params.elabFailure { exampleParams with fbCapacity := 4194305 } = some .fbCapacity := by decide

/-! ### Configuration commands -/

theorem test_nop : after (exec .nop { panel with err := 9 }) (fun t => (t.err, banks t)) =
    some (0#4, banks panel) := by decide

theorem test_setgeom0 : after (exec (.setgeom0 64 32) panel) (fun t => (t.staged, t.active)) =
    some (⟨64, 32, 1, 2, 0⟩, panel.active) := by decide

theorem test_setgeom1 : after (exec (.setgeom1 2 16 2) panel) (fun t => (t.staged, t.active)) =
    some (⟨8, 2, 2, 16, 1⟩, panel.active) := by decide

/-- V2, a success: the STATUS word is 0x00000003 and both banks are zero. -/
theorem test_configure : after (exec .configure { staged 8 2 1 2 1 with mem := panel.mem, front := true, row := 1 })
    (fun t => (statusWord t, banks t, t.tickPeriod, t.trace)) =
    some (0x00000003#32, List.replicate 4 (some 0x00#8), 8000#24, [LineEvent.linesInit]) := by decide +kernel

/-- V2, one row for each error code: W = 0 (before a bad scan depth), S = 12, S = 32, one lane wired, H = 32 with one lane,
512 columns. -/
theorem test_configure_errors : [exec .configure (staged 0 32 1 3 2), exec .configure (staged 64 24 1 12 2),
    exec .configure (staged 64 64 1 32 2),
    exec .configure { staged 64 32 1 16 2 with cfg := { exampleParams with supported := [⟨1, 4, 1, true⟩] } },
    exec .configure (staged 64 32 1 16 1), exec .configure (staged 512 32 1 16 2)].map (fun o => after o statusWord) =
    [0x400#32, 0x500#32, 0x600#32, 0x700#32, 0x800#32, 0x900#32].map some := by decide +kernel

/-! ### Drawing commands -/

/-- V3's corner cases on byte 0 of the back bank, which holds 0xA0. -/
theorem test_setpixel : after (exec (.setpixel 1 0 true) panel) (fun t => (t.err, banks t)) =
    some (0#4, [some 0x11#8, some 0x22#8, some 0xE0#8, some 0x05#8]) ∧
    after (exec (.setpixel 7 1 false) panel) banks = some [some 0x11#8, some 0x22#8, some 0xA0#8, some 0x04#8] := by
  decide +kernel

/-- V3: out of range is no error, and `INIT = 0` is `NOT_INIT`. -/
theorem test_setpixel_outside : after (exec (.setpixel 8 0 true) { panel with err := 3 }) (fun t => (t.err, banks t)) =
    some (0#4, banks panel) ∧
    after (exec (.setpixel (-1) 0 true) panel) banks = some (banks panel) ∧
    after (exec (.setpixel 0 0 true) fresh) statusWord = some 0x00000200#32 := by decide +kernel

/-- V4. -/
theorem test_fill : after (exec (.fill true) panel) (fun t => (t.err, banks t)) =
    some (0#4, [some 0x11#8, some 0x22#8, some 0xFF#8, some 0xFF#8]) ∧
    after (exec (.fill false) panel) banks = some [some 0x11#8, some 0x22#8, some 0x00#8, some 0x00#8] := by decide +kernel

/-- V3: (5, 1) is bit 2 of 0x05, set, and (6, 1) is clear. An out-of-range read gives 0. -/
theorem test_getpixel : after (exec (.getpixel 5 1) panel) (fun t => t.pix) = some true ∧
    after (exec (.getpixel 6 1) { panel with pix := true }) (fun t => t.pix) = some false ∧
    after (exec (.getpixel 8 1) { panel with pix := true }) (fun t => (t.pix, t.err)) = some (false, 0#4) := by
  decide +kernel

/-! ### SWAP: V5 -/

theorem test_swap : after (exec (.swap false) panel) (fun t => (t.front, banks t)) = some (true, banks panel) := by decide

theorem test_swap_copy : after (exec (.swap true) panel) (fun t => (t.front, banks t)) =
    some (true, [some 0xA0#8, some 0x05#8, some 0xA0#8, some 0x05#8]) := by decide +kernel

/-! ### Brightness: V6 -/

theorem test_setbright : after (exec (.setbright 10) fresh) (fun t => (t.duty, statusWord t)) =
    some (245#8, 0x0A000000#32) ∧
    after (exec (.setbright 0) panel) (fun t => (t.duty, litSteps t.duty)) = some (255#8, 0) := by decide +kernel

/-- R185: at `DUTY = 127` the output enable is 1 up to step 127 and 0 from step 128. -/
theorem test_output_enable : oeN { panel with pwmCnt := 127 } = .high ∧ oeN { panel with pwmCnt := 128 } = .low ∧
    oeN { panel with init := false } = .high ∧ oeN fresh = .z := by decide

/-! ### START, STOP, the timer and the tick -/

/-- V7. -/
theorem test_start : after (exec (.start 1) panel) (fun t => (t.tickPeriod, t.tie, t.err)) = some (16000000#24, true, 0#4) ∧
    after (exec (.start 1000) fresh) statusWord = some 0x00000002#32 := by decide +kernel

theorem test_start_refused : after (exec (.start 0) panel) (fun t => (t.tickPeriod, t.tie, t.err)) =
    some (8000#24, true, 3#4) ∧
    after (exec (.start 1) { panel with cfg := { exampleParams with clkHz := 20000000 } }) (fun t => t.err) = some 3#4 := by
  decide +kernel

/-- P5, step 1 (with row 1 next and bank 1 in front). -/
theorem test_stop : after (exec .stop { panel with pend := true, row := 1, front := true }) statusWord =
    some 0x80010009#32 := by decide +kernel

/-- P4, step 9: its trace, its end state, and the lines after it. -/
theorem test_tick_dual : after (step { dualPanel with agenda := [.tick] }) (fun t => (t.trace, statusWord t)) =
    some ([.duty 255] ++ (List.replicate 3 [.data2 false false, .clk true, .clk false]).flatten ++
      [.data2 false true, .clk true, .clk false] ++ (List.replicate 4 [.data2 false false, .clk true, .clk false]).flatten ++
      [.lat true, .lat false, .lat true, .lat false, .addr 1 1, .duty 0], 0xFF00000B#32) := by decide +kernel

/-- P2, step 10: row 1 of the front bank is 0x05. -/
theorem test_tick_single :
    after (step { panel with front := true, pend := true, row := 1, agenda := [.tick] }) (fun t => (t.lines, t.row, t.trace)) =
    some (⟨true, false, false, false, 1⟩, 0, [.duty 255] ++
      ([false, false, false, false, false, true, false, true].map fun b => [.data b, .clk true, .clk false]).flatten ++
      [.addr 1 1, .lat true, .lat false, .duty 127]) := by decide +kernel

/-- R157: the reload at the last count, and the lost expiry of R158. -/
theorem test_timer : after (step { panel with timerCnt := 7999, agenda := [.clock] }) (fun t => (t.timerCnt, t.pend)) =
    some (0#24, true) ∧
    after (step { panel with agenda := [.clock] }) (fun t => (t.timerCnt, t.pend, t.pwmCnt)) = some (1#24, false, 1#8) := by
  decide +kernel

/-- R67, R41, R42: a STATUS read, a CMD read, a stray byte write, an illegal word. -/
theorem test_bus : after (step { panel with agenda := [.bus (.read 4 4)] }) (fun t => t.busReads) = some [0x80000003#32] ∧
    after (step { panel with agenda := [.bus (.read 0 4)] }) (fun t => t.busReads) = some [0x00000000#32] ∧
    after (step { panel with agenda := [.bus (.write 0 1 0x90000000)] }) statusWord = some 0x80000003#32 ∧
    after (step { panel with agenda := [.bus (.write 0 4 0xB0000000)] }) statusWord = some 0x80000103#32 := by decide +kernel

/-- R37, R200: levels of driven lines (the row address 5 = 0b0101), and the same lines undriven. -/
theorem test_panel_lines :
    let s : State := { panel with lines := ⟨true, false, false, true, 5⟩ }
    data0Line s = .high ∧ data1Line s = some .low ∧ clkLine s = .low ∧ latLine s = .high ∧
    [0, 1, 2, 3, 4].map (addrLine s) = [some .high, some .low, some .high, some .low, none] ∧
    data0Line { s with lineEn := false } = .z ∧ addrLine { s with lineEn := false } 0 = some .z := by decide

/-- R260: the reset input. -/
theorem test_reset : after (step { panel with agenda := [.reset] }) (fun t => (statusWord t, t.duty, t.lineEn, t.epoch)) =
    some (0x00000000#32, 255#8, false, 1) := by decide +kernel

/-- V8: 29 events and 31 reference clocks for one byte per row. -/
theorem test_reference_timing : tickEventCount panel = 29 ∧ tickClocks panel = 31 ∧ tickClocks fresh = 1 ∧
    commandClocks (.fill true) panel = 3 ∧ tickMeetsDeadline panel = true := by decide

/-! ### What the obligations assume, met -/

theorem fresh_inv : fresh.Inv where
  cfg := exampleParams_valid
  rule := ⟨by decide, by decide, exampleParams_valid.gammaZero.symm, ⟨.ok, rfl⟩, fun _ => rfl⟩
  lanes := by decide
  mem := ⟨List.Pairwise.nil, by decide⟩
  lines := ⟨by decide, rfl, rfl, fun _ => rfl, by decide, by decide⟩
  timer := by decide
  pwm := by decide

theorem panel_inv : panel.Inv where
  cfg := exampleParams_valid
  rule := ⟨by decide, by decide, by decide +kernel, ⟨.ok, rfl⟩, by decide⟩
  lanes := fun _ => .inl rfl
  mem := ⟨by decide, by decide⟩
  lines := ⟨fun _ => rfl, rfl, rfl, fun _ => rfl, by decide, fun _ => by decide⟩
  timer := by decide
  pwm := by decide

theorem doubleLatch_valid : doubleLatch.Valid where
  clkHz := by decide
  defaultTickHz := by decide
  defaultPeriod := by decide
  fbCapacity := by decide
  pwmPrescale := by decide
  portSupported := by decide
  dataLines := .inr rfl
  addrLines := by decide
  latchPulses := .inr rfl
  gammaMono := exampleParams_valid.gammaMono
  gammaZero := exampleParams_valid.gammaZero
  drsBase := by decide

theorem dualPanel_inv : dualPanel.Inv where
  cfg := doubleLatch_valid
  rule := ⟨by decide, by decide, by decide +kernel, ⟨.ok, rfl⟩, by decide⟩
  lanes := fun _ => .inr rfl
  mem := ⟨by decide, by decide⟩
  lines := ⟨fun _ => rfl, rfl, rfl, fun _ => rfl, by decide, fun _ => by decide⟩
  timer := by decide
  pwm := by decide

/-- The invariant says nothing of the agenda. -/
theorem inv_offered {s : State} (h : s.Inv) (agenda : List Input) : State.Inv { s with agenda := agenda } :=
  ⟨h.cfg, ⟨h.rule.1, h.rule.2, h.rule.3, h.rule.4, h.rule.5⟩, h.lanes, ⟨h.mem.1, h.mem.2⟩,
    ⟨h.lines.1, h.lines.2, h.lines.3, h.lines.4, h.lines.5, h.lines.6⟩, h.timer, h.pwm⟩

/-- The invariant says nothing of a pending tick while ticks are enabled. -/
theorem inv_pending {s : State} (h : s.Inv) (ht : s.tie = true) : State.Inv { s with pend := true } :=
  ⟨h.cfg, ⟨h.rule.1, h.rule.2, h.rule.3, h.rule.4, fun e => by rw [show s.tie = false from e] at ht; cases ht⟩, h.lanes,
    ⟨h.mem.1, h.mem.2⟩, ⟨h.lines.1, h.lines.2, h.lines.3, h.lines.4, h.lines.5, h.lines.6⟩, h.timer, h.pwm⟩

/-- OpcodeMapIsExact, DecoderTotalAndUnambiguous, FieldsAtTheirBits, and the words of the per-command statements: the least and
the greatest word of each row. -/
theorem witness_rows : ∀ r ∈ specRows, fits r.2.1 r ∧ fits (r.2.1 ||| ~~~ r.2.2) r := by decide

/-- EncodeThenDecode. -/
theorem witness_encode : (Instr.setpixel (-8192) 4095 true).wellFormed = true ∧ (Instr.setgeom1 0 255 2).wellFormed = true := by
  decide

/-- DecodeThenEncode. -/
theorem witness_decode : decode 0x4BFFDFFF#32 = .ok (.setpixel 8191 4095 true) ∧ decode 0x2001FFFF#32 = .ok (.setgeom1 255 255 2) := by
  decide

/-- IllegalWordOnlySetsErr, OpcodeMapIsExact: the first reserved opcode, and a reserved bit. -/
theorem witness_illegal : 0xB ≤ bits 0xB0000000#32 31 28 ∧ (∀ r ∈ specRows, ¬ fits 0xB0000000#32 r) ∧ ∀ r ∈ specRows, ¬ fits 0x12000000#32 r := by decide

/-- StepRunsDecodedCommand, CommandRegisterRunsItsWord: a word that decodes and one that does not, at the head of the agenda. -/
theorem witness_command : decode 0x80000000#32 = .ok (.start 0) ∧
    decode 0xFFFFFFFF#32 = .error (.reservedOpcode 0xF#4) ∧
    State.agenda { panel with agenda := [commandWrite 0x80000000#32] } = [.bus (.write 0#3 4 0x80000000#32)] ∧
    State.agenda { panel with agenda := [.bus (.read 0#3 4)] } = [.bus (.read 0#3 4)] := by decide

/-- StrayAccessesIgnored: too narrow, too wide, misaligned. -/
theorem witness_stray : ¬ (2 = 4 ∧ (0#3 = 0#3 ∨ 0#3 = 4#3)) ∧ ¬ (8 = 4 ∧ (0#3 = 0#3 ∨ 0#3 = 4#3)) ∧
    ¬ (4 = 4 ∧ (1#3 = 0#3 ∨ 1#3 = 4#3)) ∧ ¬ (4 = 4 ∧ (7#3 = 0#3 ∨ 7#3 = 4#3)) ∧
    State.agenda { panel with agenda := [.bus (.read 7#3 4)] } = [.bus (.read 7#3 4)] := by decide

/-- StatusRegisterLayout, StatusReadSeesTheCommandBeforeIt. -/
theorem witness_status : State.agenda { panel with agenda := [.bus (.read 4#3 4)] } = [.bus (.read 4#3 4)] ∧
    State.agenda { panel with agenda := [.bus (.write 4#3 4 1#32)] } = [.bus (.write 4#3 4 1#32)] ∧
    ∃ t, commandStep 0x90000000#32 { panel with agenda := .bus (.read 4 4) :: [] } = .next t := by
  refine ⟨rfl, rfl, _, rfl⟩

/-- RegisterMapAtBase: the first and the last byte of the block's eight, and the addresses next to them. -/
theorem witness_map : Params.drsBase { exampleParams with drsBase := 4 } = 4 ∧ 0 < 8 ∧ 7 < 8 ∧ 3 < 4 ∧ 4 + 8 ≤ 12 := by decide

/-- ResetValues, ResetInputRestoresResetState. -/
theorem witness_reset : State.agenda { panel with agenda := [.reset] } = [.reset] ∧
    ∃ r, step { panel with agenda := [.reset] } = .next r := ⟨rfl, _, rfl⟩

/-- StepKeepsInvariant, InvariantStatesNeverStop, ParametersNeverChange, OtherStepsKeepCommandRegisters: a block clock, and a tick
that advances `ROW`. -/
theorem witness_step : panel.Inv ∧ (∃ t, step panel = .next t) ∧ (∀ rest, panel.agenda ≠ .reset :: rest) ∧
    (∀ o n d rest, panel.agenda ≠ .bus (.write o n d) :: rest) ∧
    after (step dualPanel) (fun t => t.row) = some 0#7 ∧ dualPanel.row = 1#7 :=
  ⟨panel_inv, ⟨_, rfl⟩, fun _ h => (by cases h), fun _ _ _ _ h => (by cases h), by decide +kernel, rfl⟩

theorem reachable_run {n : Nat} {s t : State} (h : s.Reachable) (e : runSteps n s = .next t) : t.Reachable := by
  induction n generalizing s with
  | zero => cases e; exact h
  | succ n ih =>
    simp only [runSteps] at e
    split at e
    · rename_i u hu
      exact ih (.stepped _ _ h hu) e
    · cases e
    · cases e

/-- ReachableStatesMeetRule44: the reset state (`TIE = 0`), and a configured one (`INIT = 1`). -/
theorem witness_reachable : fresh.Reachable ∧ ∃ s : State, s.Reachable ∧ s.init = true := by
  have h : fresh.Reachable := .powerOn _ _ exampleParams_valid
  refine ⟨h, ?_⟩
  have hr := State.Reachable.offered _
    [commandWrite 0x10004008, commandWrite 0x20000201, commandWrite 0x30000000] h
  have hi : after (runSteps 3 { fresh with
      agenda := [commandWrite 0x10004008, commandWrite 0x20000201, commandWrite 0x30000000] }) State.init = some true := by
    decide +kernel
  cases e : runSteps 3 { fresh with
      agenda := [commandWrite 0x10004008, commandWrite 0x20000201, commandWrite 0x30000000] } with
  | next t =>
    rw [e] at hi
    exact ⟨t, reachable_run hr e, by simpa [after] using hi⟩
  | fault f => rw [e] at hi; cases hi
  | refused r => rw [e] at hi; cases hi

/-- NopOnlyClearsErr: the least and the greatest illegal word of opcode 0. -/
theorem witness_nop : bits 0x00000001#32 31 28 = 0 ∧ (0x00000001#32 : Word) ≠ 0x00000000#32 ∧
    bits 0x0FFFFFFF#32 31 28 = 0 ∧ (0x0FFFFFFF#32 : Word) ≠ 0x00000000#32 := by decide

/-- Setgeom0StagesWidthAndHeight, Setgeom1StagesChainScanLanes, StartProgramsTimer: the greatest operands. -/
theorem witness_operands : 8191 ≤ 8191 ∧ 4095 ≤ 4095 ∧ 255 ≤ 255 ∧ (2 = 1 ∨ 2 = 2) ∧ 1048575 ≤ 1048575 := by decide

/-- ConfigureAppliesStagedGeometry, ScanStateFollowsCommands: the smallest panel, and one that fills a bank exactly. -/
theorem witness_good : stagedGeometryGood (staged 8 1 1 1 1) ∧ stagedGeometryGood (staged 256 32 1 16 2) :=
  ⟨⟨by decide, by decide, by decide, by decide, ⟨0, by decide, by decide⟩, by decide, by decide, by decide⟩,
    ⟨by decide, by decide, by decide, by decide, ⟨4, by decide, by decide⟩, by decide, by decide, by decide⟩⟩

/-- ConfigureFailureStopsScanning, ScanStateFollowsCommands: nothing staged, undriven and driven. -/
theorem witness_bad : ¬ stagedGeometryGood fresh ∧ ¬ stagedGeometryGood { panel with staged := ⟨0, 0, 0, 0, 0⟩ } ∧
    panel.lineEn = true ∧ freqValid exampleParams 2000 = true :=
  ⟨fun h => h.1 rfl, fun h => h.1 rfl, rfl, by decide⟩

/-- SetpixelWritesOneByte, SetpixelChangesExactlyOnePixel, PixelMapAddressesAndMasks, GetpixelReadsBackPixel,
SetpixelThenGetpixelAcrossTicks: the corners, the coordinates next to them, and an unconfigured block. -/
theorem witness_pixel : panel.Inv ∧ panel.init = true ∧ insidePanel panel 0 0 ∧ insidePanel panel 7 1 ∧
    ¬ insidePanel panel 8 0 ∧ ¬ insidePanel panel 0 2 ∧ ¬ insidePanel panel (-1) 0 ∧ ¬ insidePanel panel 0 (-1) ∧
    fresh.init = false ∧ ∀ i ∈ [Input.expire, .tick, .clock], ofTheBlock i :=
  ⟨panel_inv, rfl, by decide, by decide, by decide, by decide, by decide, by decide, rfl, by decide⟩

/-- FillWritesBackBank, ClearTwiceIsClearOnce, DrawingNeverReachesFrontBank, SwapExchangesAndCopies, SwapShowsTheDrawnImage: the last used byte of each
bank and the byte after it. -/
theorem witness_banks : panel.Inv ∧ panel.init = true ∧ InBank panel.cfg (activeDims panel.active) panel.front 1 ∧
    ¬ InBank panel.cfg (activeDims panel.active) panel.front 2 ∧
    InBank panel.cfg (activeDims panel.active) (!panel.front) 1025 ∧
    ¬ InBank panel.cfg (activeDims panel.active) (!panel.front) 1026 ∧ 1 < bufferSize (activeDims panel.active) ∧
    insidePanel panel 7 1 :=
  ⟨panel_inv, rfl, by decide, by decide, by decide, by decide, by decide, by decide⟩

/-- ClearTwiceIsClearOnce, CommandsWriteOnlyTheirRegisters: commands that change `DUTY`, the timer's registers, and the lines. -/
theorem witness_exec : (∃ t, exec (.fill true) panel = .next t) ∧ (∃ t, exec .stop panel = .next t) ∧
    after (exec (.setbright 255) panel) (fun t => t.duty) = some 0#8 ∧
    after (exec (.start 1000) { panel with timerCnt := 5 }) (fun t => (t.tickPeriod, t.timerCnt)) = some (16000#24, 0#24) ∧
    after (exec .configure { panel with lines := ⟨true, false, false, false, 1⟩ }) (fun t => t.lines) =
      some ⟨false, false, false, false, 0⟩ :=
  ⟨⟨_, rfl⟩, ⟨_, rfl⟩, by decide +kernel, by decide +kernel, by decide +kernel⟩

/-- DrawingBeforeConfigurationFails, DrawingNeverReachesFrontBank: the commands they name. -/
theorem witness_drawing : fresh.init = false ∧
    (∀ i ∈ [Instr.setpixel 0 0 true, .fill true, .getpixel 0 0, .swap true],
      i.mnemonic ∈ ["SETPIXEL", "FILL", "GETPIXEL", "SWAP"]) ∧
    ∀ i ∈ [Instr.setpixel 0 0 true, .fill true, .getpixel 0 0], i.mnemonic ∈ ["SETPIXEL", "FILL", "GETPIXEL"] := by decide

/-- BrighterIsNeverDarker, SetbrightProgramsDuty. -/
theorem witness_brighter : panel.Inv ∧ panel.cfg.Valid ∧ (0#8 : BitVec 8) ≤ 255#8 ∧ panel.lineEn = true :=
  ⟨panel_inv, exampleParams_valid, by decide, rfl⟩

/-- StartProgramsTimer: valid at 1 Hz and at the greatest operand, invalid at 0. -/
theorem witness_start :
    (1 ≤ 1 ∧ 1 ≤ panel.cfg.clkHz / 1 ∧ panel.cfg.clkHz / 1 ≤ 16777215) ∧
    (1 ≤ 1048575 ∧ 1 ≤ panel.cfg.clkHz / 1048575 ∧ panel.cfg.clkHz / 1048575 ≤ 16777215) ∧
    ¬ (1 ≤ 0 ∧ 1 ≤ panel.cfg.clkHz / 0 ∧ panel.cfg.clkHz / 0 ≤ 16777215) := by decide

/-- StopPreventsLaterTicks. -/
theorem witness_later : ∀ i ∈ ticks 2 ++ [.clock], ofTheBlock i := by decide

/-- TimerCountsWhileEnabled: the last count, the count before it, and a disabled timer. -/
theorem witness_timer : panel.tie = true ∧ panel.tickPeriod.toNat ≤ 7999 + 1 ∧ 7998 + 1 < panel.tickPeriod.toNat ∧
    fresh.tie = false ∧ fresh.Inv ∧ State.agenda { fresh with agenda := [.clock] } = [.clock] :=
  ⟨rfl, by decide, by decide, rfl, fresh_inv, rfl⟩

/-- ExpiryWhilePendingIsLost. -/
theorem witness_expiry : State.agenda { dualPanel with agenda := [.expire] } = [.expire] ∧ dualPanel.pend = true := by decide

/-- PwmCounterAdvancesEveryPrescale: a prescale of 1 and one of 3. -/
theorem witness_pwm : panel.cfg.Valid ∧ panel.pwmPhase = 0 ∧
    State.agenda { panel with agenda := [.clock] } = List.replicate panel.cfg.pwmPrescale .clock ++ [] ∧
    State.agenda { panel with cfg := { exampleParams with pwmPrescale := 3 }, agenda := [.clock, .clock, .clock] } =
      List.replicate 3 .clock ++ [] := ⟨exampleParams_valid, rfl, rfl, rfl⟩

/-- TickComesWithinOnePeriod, BlockAloneServesPendingTickFirst. -/
theorem witness_alone : panel.Inv ∧ panel.init = true ∧ panel.tie = true ∧ panel.pend = false ∧ panel.agenda = [] ∧
    dualPanel.agenda = [] ∧ dualPanel.pend = true ∧ dualPanel.tie = true := ⟨panel_inv, rfl, rfl, rfl, rfl, rfl, rfl, rfl⟩

/-- TickShiftsAddressesLatches, TickEventCountAndOrder, LinesBetweenTicks: dual-lane, and single-lane. -/
theorem witness_tick : State.Inv { dualPanel with agenda := [.tick] } ∧ dualPanel.init = true ∧ dualPanel.pend = true ∧
    State.Inv { panel with pend := true, agenda := [.tick] } ∧ panel.init = true :=
  ⟨inv_offered dualPanel_inv _, rfl, rfl, inv_offered (inv_pending panel_inv rfl) _, rfl⟩

/-- TickWithoutConfigurationDoesNothing: unconfigured, nothing pending, ticks disabled. -/
theorem witness_tick_guard : fresh.init = false ∧ panel.pend = false ∧ fresh.tie = false ∧
    State.agenda { fresh with tie := true, pend := true, agenda := [.tick] } = [.tick] := by decide

/-- TickDependsOnlyOnFrontBank: the same panel with another back bank. -/
theorem witness_front_only :
    State.Inv { panel with pend := true, agenda := [.tick] } ∧
    State.Inv { panel with pend := true, agenda := [.tick], mem := [(0, 0x11), (1, 0x22), (1024, 0xFF)] } ∧
    ∀ a, InBank panel.cfg (activeDims panel.active) panel.front a →
      byteAt { panel with pend := true, agenda := [.tick], mem := [(0, 0x11), (1, 0x22), (1024, 0xFF)] } a =
        byteAt { panel with pend := true, agenda := [.tick] } a := by
  have h := panel_inv
  refine ⟨inv_offered (inv_pending h rfl) _, ?_, ?_⟩
  · refine ⟨h.cfg, ⟨h.rule.1, h.rule.2, h.rule.3, h.rule.4, by decide⟩, h.lanes, ⟨by decide, by decide⟩,
      ⟨h.lines.1, h.lines.2, h.lines.3, h.lines.4, h.lines.5, h.lines.6⟩, h.timer, h.pwm⟩
  · rintro a ⟨h1, h2⟩
    have : a = 0 ∨ a = 1 := by
      have : a < 0 + 2 := h2
      omega
    rcases this with rfl | rfl <;> rfl

/-- FrameShowsEveryRowOnce. -/
theorem witness_frame : State.Inv { panel with agenda := ticks 2 } ∧ panel.init = true ∧ panel.tie = true ∧
    State.agenda { panel with agenda := ticks 2 } = ticks panel.active.scan.toNat ++ [] :=
  ⟨inv_offered panel_inv _, rfl, rfl, rfl⟩

/-- OutputEnableFunction, LitStepsOfAPwmPeriod: undriven, unconfigured, the last dark step and the first lit one, and dark. -/
theorem witness_output : fresh.lineEn = false ∧ panel.lineEn = true ∧ State.init { panel with init := false } = false ∧
    panel.init = true ∧ (127#8 : BitVec 8) ≤ panel.duty ∧ panel.duty < 128#8 ∧ fresh.duty = 255#8 := by decide

/-- PanelLinesFollowLineEnable: undriven and driven, two data lines and one, the last wired address line and the first absent one,
the CONFIGURE that drives the lines, and the reset that ends it. -/
theorem witness_lines : fresh.lineEn = false ∧ panel.lineEn = true ∧ panel.cfg.variant.numDataLines = 2 ∧
    Params.variant { exampleParams with supported := [⟨1, 4, 1, true⟩] } = ⟨1, 4, 1, true⟩ ∧ 1 ≠ 2 ∧
    3 < panel.cfg.variant.numAddrLines ∧ panel.cfg.variant.numAddrLines ≤ 4 ∧ stagedGeometryGood (staged 8 1 1 1 1) ∧
    after (step { staged 8 1 1 1 1 with agenda := [commandWrite 0x30000000#32] }) (fun t => t.lineEn) = some true ∧
    after (step { panel with agenda := [.reset] }) (fun t => t.lineEn) = some false :=
  ⟨rfl, rfl, rfl, rfl, by decide, by decide, by decide, witness_good.1, by decide +kernel, by decide +kernel⟩

/-- AssemblerEmitsOrRefuses: the greatest operands, and one too great. -/
theorem witness_assembler : (∀ i ∈ expandOp (.begin_ 8191 4095 255 255 2), i.wellFormed = true) ∧
    ∃ i ∈ expandOp (.begin_ 8192 1 1 1 1), i.wellFormed = false := by decide

end Sys2Proof.Tests
end

/-! ## Proofs of the family 10_state.md

What one step can do and what it leaves; the rules for reads and writes of the port, for CONFIGURE, for the STATUS word and
for the panel lines; then the statements about the state, built from them. -/

section
namespace Sys2Proof.Machine

open Sys2Proof.Statements

/-! ### What one step can do -/

/-- Everything that a step from `s` to `t` can be (R71), with the input that it takes off the agenda: a command, an illegal
word, an access or a turn of the scan engine that leaves every register, the timer's expiry, a tick, a block clock, or the
reset input. With an empty agenda a block alone ticks or lets a clock pass. -/
inductive StepEffect (s t : State) : Prop where
  | command (w : Word) (i : Instr) (rest : List Input) (offered : s.agenda = commandWrite w :: rest)
      (decoded : decode w = .ok i) (ran : exec i { s with agenda := rest } = .next t)
  | illegal (w : Word) (e : Illegal) (rest : List Input) (offered : s.agenda = commandWrite w :: rest)
      (rejected : decode w = .error e) (raised : t = raiseCmdError .illegal { s with agenda := rest })
  | passed (i : Input) (rest : List Input) (reads : List Word) (offered : s.agenda = i :: rest)
      (recorded : reads = s.busReads ∨ ∃ o n, i = .bus (.read o n) ∧ reads = s.busReads ++ [portRead s o n])
      (kept : t = { s with agenda := rest, busReads := reads })
  | expired (rest : List Input) (offered : s.agenda = .expire :: rest) (marked : t = timerExpire { s with agenda := rest })
  | ticked (rest : List Input) (turn : s.agenda = .tick :: rest ∨ s.agenda = rest ∧ rest = []) (pending : s.pend = true)
      (enabled : s.tie = true) (ran : runTick { s with agenda := rest } = .next t)
  | clocked (rest : List Input) (turn : s.agenda = .clock :: rest ∨ s.agenda = rest ∧ rest = [])
      (counted : t = blockClock { s with agenda := rest })
  | wasReset (rest : List Input) (offered : s.agenda = .reset :: rest) (cleared : t = resetBlock { s with agenda := rest })

theorem step_effect {s t : State} (h : step s = .next t) : StepEffect s t := by
  cases ha : s.agenda with
  | nil =>
    rw [step_nil ha] at h
    unfold runAlone at h
    split at h
    · rename_i hg
      rw [Bool.and_eq_true] at hg
      exact .ticked s.agenda (.inr ⟨rfl, ha⟩) hg.1 hg.2 h
    · cases h
      exact .clocked s.agenda (.inr ⟨rfl, ha⟩) rfl
  | cons i rest =>
    rw [step_cons ha] at h
    cases i with
    | bus a =>
      cases a with
      | write offset bytes data =>
        simp only [runInput, runAccess] at h
        split at h
        · rename_i hport
          obtain ⟨rfl, rfl⟩ := hport
          cases hd : decode data with
          | ok i =>
            simp only [runCommand, hd] at h
            exact .command data i rest ha hd h
          | error e =>
            simp only [runCommand, hd] at h
            cases h
            exact .illegal data e rest ha hd rfl
        · cases h
          exact .passed _ rest s.busReads ha (.inl rfl) rfl
      | read offset bytes =>
        cases h
        exact .passed _ rest _ ha (.inr ⟨offset, bytes, rfl, rfl⟩) rfl
    | expire =>
      cases h
      exact .expired rest ha rfl
    | tick =>
      simp only [runInput, serveTick] at h
      split at h
      · rename_i hg
        rw [Bool.and_eq_true] at hg
        exact .ticked rest (.inl ha) hg.1 hg.2 h
      · cases h
        exact .passed _ rest s.busReads ha (.inl rfl) rfl
    | clock =>
      cases h
      exact .clocked rest (.inl ha) rfl
    | reset =>
      cases h
      exact .wasReset rest ha rfl

/-! ### The port and the reset input -/

/-- A 32-bit write at 0x0 is a command (R66). -/
theorem step_commandWrite {s : State} {rest : List Input} {w : Word} (h : s.agenda = .bus (.write 0#3 4 w) :: rest) :
    step s = runCommand w { s with agenda := rest } := step_cons h

/-- Every other write is ignored (R41, R67). -/
theorem step_otherWrite {s : State} {rest : List Input} {offset : BitVec 3} {bytes : Nat} {data : Word}
    (h : s.agenda = .bus (.write offset bytes data) :: rest) (hport : ¬ (bytes = 4 ∧ offset = 0#3)) :
    step s = .next { s with agenda := rest } := by
  rw [step_cons h]
  exact if_neg hport

/-- A read returns the port's value and has no side effect (R69). -/
theorem step_read {s : State} {rest : List Input} {offset : BitVec 3} {bytes : Nat}
    (h : s.agenda = .bus (.read offset bytes) :: rest) :
    step s = .next { s with agenda := rest, busReads := s.busReads ++ [portRead s offset bytes] } := step_cons h

theorem portRead_status (s : State) : portRead s 4#3 4 = statusWord s := rfl

theorem portRead_command (s : State) : portRead s 0#3 4 = 0#32 := rfl

theorem step_reset {s : State} {rest : List Input} (h : s.agenda = .reset :: rest) :
    step s = .next (resetBlock { s with agenda := rest }) := step_cons h

/-! ### CONFIGURE and the staged geometry -/

/-- The power-of-two test of R105, with the bound of the address lines, is a power that the lines reach. -/
theorem scanTests_iff {n k : Nat} (hn : n < 256) :
    (0 < n ∧ n &&& (n - 1) = 0 ∧ Nat.log2 n ≤ k) ↔ ∃ j ≤ k, n = 2 ^ j := by
  constructor
  · rintro ⟨hpos, hpow, hle⟩
    exact ⟨_, hle, scan_eq_pow hn hpos hpow⟩
  · rintro ⟨j, hj, rfl⟩
    exact ⟨Nat.two_pow_pos j, by rw [Nat.and_two_pow_sub_one_eq_mod, Nat.mod_self], by rwa [Nat.log2_two_pow]⟩

/-- The statements' good geometry is the one that passes the checks of CONFIGURE (R105). -/
theorem stagedGeometryGood_iff (s : State) :
    stagedGeometryGood s ↔ checkGeom s.cfg (stagedDims s.staged) = .ok := by
  have hscan := scanTests_iff (k := s.cfg.variant.numAddrLines) (BitVec.isLt s.staged.scan)
  rw [checkGeom_ok_iff]
  constructor
  · rintro ⟨hw, hc, h8, hmax, hpow, hl, hh, hf⟩
    obtain ⟨hpos, hbits, haddr⟩ := hscan.2 hpow
    exact ⟨Nat.pos_of_ne_zero hw, Nat.pos_of_ne_zero hc, h8, hmax, hpos, hbits, haddr, hl, hh, hf⟩
  · rintro ⟨hw, hc, h8, hmax, hpos, hbits, haddr, hl, hh, hf⟩
    exact ⟨hw.ne', hc.ne', h8, hmax, hscan.1 ⟨hpos, hbits, haddr⟩, hl, hh, hf⟩

/-- CONFIGURE on a staged geometry that passes the checks (R106). -/
theorem exec_configure_passes {s : State} (h : checkGeom s.cfg (stagedDims s.staged) = .ok) :
    ∃ m, exec .configure s = .next { s with
      active := activate s.staged, mem := m, front := false, row := 0, lineEn := true,
      lines := ⟨false, false, false, false, 0⟩, trace := s.trace ++ [.linesInit], init := true,
      tickPeriod := defaultPeriod s.cfg, timerCnt := 0, pend := false, tie := true, err := 0 } := by
  obtain ⟨m, e, -, -⟩ := configApply_spec h
  refine ⟨m, ?_⟩
  change execConfigure s = _
  rw [execConfigure_passes h, e, answer]

/-- CONFIGURE on a staged geometry that fails a check (R107). -/
theorem exec_configure_fails {s : State} (h : checkGeom s.cfg (stagedDims s.staged) ≠ .ok) :
    exec .configure s = .next (configFail (checkGeom s.cfg (stagedDims s.staged)) s) := execConfigure_fails h

/-- The one word of CONFIGURE (R84). -/
theorem word_of_decode_configure {w : Word} (h : decode w = .ok .configure) : w = 0x30000000#32 := by
  rw [decode_ok_iff] at h
  simp only [reduceCtorEq, and_false, and_true, false_or, or_false] at h
  exact BitVec.eq_of_toNat_eq h

/-! ### What every step leaves unchanged -/

theorem exec_cfg {s t : State} {i : Instr} (h : exec i s = .next t) : t.cfg = s.cfg := by
  have w := exec_writes h
  cases i with
  | nop | setgeom0 _ _ | setgeom1 _ _ _ | setbright _ | stop => exact (congrArg State.cfg w :)
  | configure => obtain e | ⟨_, e⟩ := w <;> exact (congrArg State.cfg e :)
  | setpixel _ _ _ | fill _ | start _ | getpixel _ _ => obtain e | e := w <;> exact (congrArg State.cfg e :)
  | swap _ => obtain ⟨e, -⟩ | e := w <;> exact (congrArg State.cfg e :)

/-- No step changes a parameter (R182). -/
theorem step_cfg {s t : State} (h : step s = .next t) : t.cfg = s.cfg := by
  cases step_effect h with
  | command w i rest offered decoded ran => exact (exec_cfg ran :)
  | illegal w e rest offered rejected raised => rw [raised, raiseCmdError_cfg]
  | passed i rest reads offered recorded kept => rw [kept]
  | expired rest offered marked => rw [marked, timerExpire_cfg]
  | ticked rest turn pending enabled ran => exact (congrArg State.cfg (runTick_frame ran).1 :)
  | clocked rest turn counted => rw [counted, blockClock_cfg]
  | wasReset rest offered cleared => rw [cleared, resetBlock_cfg]

/-- The only command that writes `LINE_EN` is CONFIGURE, and it sets it (R37). -/
theorem exec_lineEn {s t : State} {i : Instr} (h : exec i s = .next t) :
    t.lineEn = s.lineEn ∨ i = .configure ∧ t.lineEn = true := by
  have w := exec_writes h
  cases i with
  | nop | setgeom0 _ _ | setgeom1 _ _ _ | setbright _ | stop => exact .inl (congrArg State.lineEn w :)
  | configure =>
    obtain e | ⟨_, e⟩ := w
    · exact .inr ⟨rfl, (congrArg State.lineEn e :)⟩
    · exact .inl (congrArg State.lineEn e :)
  | setpixel _ _ _ | fill _ | start _ | getpixel _ _ => obtain e | e := w <;> exact .inl (congrArg State.lineEn e :)
  | swap _ => obtain ⟨e, -⟩ | e := w <;> exact .inl (congrArg State.lineEn e :)

/-- What a step can do to `LINE_EN`: a write of CONFIGURE sets it, the reset input clears it, and every other step keeps it
(R37). -/
theorem step_lineEn {s t : State} (h : step s = .next t) :
    t.lineEn = s.lineEn ∨
    (t.lineEn = true ∧ ∃ rest, s.agenda = .bus (.write 0#3 4 0x30000000#32) :: rest) ∨
    (t.lineEn = false ∧ ∃ rest, s.agenda = .reset :: rest) := by
  cases step_effect h with
  | command w i rest offered decoded ran =>
    obtain kept | ⟨rfl, set⟩ := exec_lineEn ran
    · exact .inl kept
    · rw [word_of_decode_configure decoded] at offered
      exact .inr (.inl ⟨set, rest, offered⟩)
  | illegal w e rest offered rejected raised => rw [raised]; exact .inl rfl
  | passed i rest reads offered recorded kept => rw [kept]; exact .inl rfl
  | expired rest offered marked => rw [marked, timerExpire_lineEn]; exact .inl rfl
  | ticked rest turn pending enabled ran => exact .inl (congrArg State.lineEn (runTick_frame ran).1 :)
  | clocked rest turn counted => rw [counted, blockClock_lineEn]; exact .inl rfl
  | wasReset rest offered cleared => rw [cleared]; exact .inr (.inr ⟨rfl, rest, offered⟩)

/-! ### The invariants of R44, operation by operation -/

/-- The reset values meet R44: the table's entry 0 is `DUTY_OFF` (R181). -/
theorem ruleInv_resetWith {p : Params} (hp : p.Valid) (epoch : Nat) : (State.resetWith p epoch).RuleInv where
  geometry h := by cases h
  row h := by cases h
  duty := hp.gammaZero.symm
  err := ⟨.ok, rfl⟩
  pend _ := rfl

theorem resetBlock_keeps_ruleInv {s : State} (hp : s.cfg.Valid) : (resetBlock s).RuleInv :=
  have ⟨geometry, row, duty, err, pend⟩ := ruleInv_resetWith hp (s.epoch + 1)
  ⟨geometry, row, duty, err, pend⟩

/-- R44 says nothing of the staged geometry, the pixel register, the roles and bytes of the banks, and what is outside. -/
theorem ruleInv_frame {s : State} (h : s.RuleInv) (staged : Staged) (pix front : Bool) (mem : Memory) (agenda : List Input)
    (reads : List Word) :
    State.RuleInv { s with
      staged := staged, pix := pix, front := front, mem := mem, agenda := agenda, busReads := reads } :=
  ⟨h.geometry, h.row, h.duty, h.err, h.pend⟩

theorem succeed_keeps_ruleInv {s : State} (h : s.RuleInv) : (succeed s).RuleInv :=
  ⟨h.geometry, h.row, h.duty, ⟨.ok, rfl⟩, h.pend⟩

theorem raiseCmdError_keeps_ruleInv {s : State} (h : s.RuleInv) (code : ErrCode) : (raiseCmdError code s).RuleInv :=
  ⟨h.geometry, h.row, h.duty, ⟨code, rfl⟩, h.pend⟩

theorem configFail_keeps_ruleInv {s : State} (h : s.RuleInv) (code : ErrCode) : (configFail code s).RuleInv where
  geometry hi := by cases hi
  row hi := by cases hi
  duty := h.duty
  err := ⟨code, rfl⟩
  pend _ := rfl

/-- A successful CONFIGURE makes the checked numbers the active ones, with `ROW = 0` below a scan depth that is not 0. -/
theorem configure_keeps_ruleInv {s t : State} (hs : s.RuleInv) (h : exec .configure s = .next t) : t.RuleInv := by
  by_cases hc : checkGeom s.cfg (stagedDims s.staged) = .ok
  · obtain ⟨m, e⟩ := exec_configure_passes hc
    rw [e] at h
    cases h
    have hscan : 0 < s.staged.scan.toNat := ((checkGeom_ok_iff _ _).1 hc).scanPos
    exact ⟨fun _ => (congrArg (checkGeom s.cfg) (activeDims_activate s.staged)).trans hc, fun _ => hscan, hs.duty,
      ⟨.ok, rfl⟩, fun _ => rfl⟩
  · rw [exec_configure_fails hc] at h
    cases h
    exact configFail_keeps_ruleInv hs _

theorem exec_keeps_ruleInv {s t : State} {i : Instr} (hs : s.RuleInv) (h : exec i s = .next t) : t.RuleInv := by
  have w := exec_writes h
  cases i with
  | configure => exact configure_keeps_ruleInv hs h
  | nop =>
    rw [show t = succeed s from w]
    exact succeed_keeps_ruleInv hs
  | setgeom0 _ _ | setgeom1 _ _ _ =>
    rw [show t = succeed { s with staged := t.staged } from w]
    exact succeed_keeps_ruleInv (ruleInv_frame hs ..)
  | setpixel _ _ _ | fill _ | getpixel _ _ =>
    obtain e | e := w <;> rw [e]
    · exact succeed_keeps_ruleInv (ruleInv_frame hs ..)
    · exact raiseCmdError_keeps_ruleInv hs _
  | swap _ =>
    obtain ⟨e, -⟩ | e := w <;> rw [e]
    · exact succeed_keeps_ruleInv (ruleInv_frame hs ..)
    · exact raiseCmdError_keeps_ruleInv hs _
  | setbright _ =>
    cases w
    exact succeed_keeps_ruleInv ⟨hs.geometry, hs.row, rfl, hs.err, hs.pend⟩
  | start _ =>
    obtain rfl | rfl := w
    · exact succeed_keeps_ruleInv ⟨hs.geometry, hs.row, hs.duty, hs.err, fun _ => rfl⟩
    · exact raiseCmdError_keeps_ruleInv hs _
  | stop =>
    cases w
    exact succeed_keeps_ruleInv ⟨hs.geometry, hs.row, hs.duty, hs.err, fun _ => rfl⟩

/-- Step 2 of a tick only emits events (R162). -/
theorem tickShift_emits {r : BitVec 7} {s u : State} (h : tickShift r s = .ok u) : ∃ es, u = emitAll es s := by
  unfold tickShift at h
  split at h <;> cases h
  exact ⟨_, rfl⟩

/-- A tick of a configured block advances `ROW` modulo the scan depth (R166). -/
theorem runTick_row {s t : State} (hi : s.init = true) (h : runTick s = .next t) :
    t.row = BitVec.ofNat 7 ((s.row.toNat + 1) % s.active.scan.toNat) := by
  simp only [runTick, hi, if_true] at h
  split at h
  · cases h
  · rename_i u hu
    cases h
    obtain ⟨es, rfl⟩ := tickShift_emits hu
    simp [tickAdvance]

theorem runTick_keeps_ruleInv {s t : State} (hs : s.RuleInv) (h : runTick s = .next t) : t.RuleInv := by
  obtain ⟨frame, hduty, -⟩ := runTick_frame h
  have hrow : s.init = true → t.row.toNat < s.active.scan.toNat := by
    intro hi
    have hpos : 0 < s.active.scan.toNat := Nat.zero_lt_of_lt (hs.row hi)
    rw [runTick_row hi h, BitVec.toNat_ofNat]
    exact (Nat.mod_le _ _).trans_lt (Nat.mod_lt _ hpos)
  rw [frame]
  exact ⟨hs.geometry, hrow, hduty.trans hs.duty, hs.err, fun _ => rfl⟩

theorem timerExpire_keeps_ruleInv {s : State} (hs : s.RuleInv) : (timerExpire s).RuleInv := by
  unfold timerExpire
  split
  · rename_i htie
    exact ⟨hs.geometry, hs.row, hs.duty, hs.err, fun h => by cases htie.symm.trans h⟩
  · exact hs

/-- A block clock moves `PEND` only while `TIE = 1` (R156). -/
theorem blockClock_keeps_ruleInv {s : State} (hs : s.RuleInv) : (blockClock s).RuleInv := by
  rw [blockClock_frame]
  refine ⟨hs.geometry, hs.row, hs.duty, hs.err, fun htie => ?_⟩
  have hheld : timerClock s = s := timerClock_disabled htie
  exact (congrArg State.pend hheld).trans (hs.pend htie)

/-- Every step keeps the five invariants, whatever the agenda offers. -/
theorem step_keeps_ruleInv {s t : State} (hp : s.cfg.Valid) (hs : s.RuleInv) (h : step s = .next t) : t.RuleInv := by
  cases step_effect h with
  | command w i rest offered decoded ran => exact exec_keeps_ruleInv (ruleInv_frame hs ..) ran
  | illegal w e rest offered rejected raised =>
    rw [raised]
    exact raiseCmdError_keeps_ruleInv (ruleInv_frame hs ..) _
  | passed i rest reads offered recorded kept =>
    rw [kept]
    exact ruleInv_frame hs ..
  | expired rest offered marked =>
    rw [marked]
    exact timerExpire_keeps_ruleInv (ruleInv_frame hs ..)
  | ticked rest turn pending enabled ran => exact runTick_keeps_ruleInv (ruleInv_frame hs ..) ran
  | clocked rest turn counted =>
    rw [counted]
    exact blockClock_keeps_ruleInv (ruleInv_frame hs ..)
  | wasReset rest offered cleared =>
    rw [cleared]
    exact resetBlock_keeps_ruleInv hp

/-- Every reachable block has accepted parameters and meets R44. -/
theorem reachable_ruleInv {s : State} (h : s.Reachable) : s.cfg.Valid ∧ s.RuleInv := by
  induction h with
  | powerOn p epoch accepted => exact ⟨accepted, ruleInv_resetWith accepted epoch⟩
  | offered s agenda before ih => exact ⟨ih.1, ruleInv_frame ih.2 ..⟩
  | stepped s t before stepTo ih =>
    obtain ⟨hp, hs⟩ := ih
    exact ⟨step_cfg stepTo ▸ hp, step_keeps_ruleInv hp hs stepTo⟩

/-- Settles O17: the invariants of R44 hold at power-on, and neither a step nor a new agenda breaks them. -/
theorem reachableStatesMeetRule44 : Obligations.ReachableStatesMeetRule44 := by
  unfold Obligations.ReachableStatesMeetRule44
  intro s h
  obtain ⟨hp, hs⟩ := reachable_ruleInv h
  obtain ⟨code, hcode⟩ := hs.err
  refine ⟨hs.geometry, hs.row, ⟨hs.duty, hp.gammaZero⟩, ?_, hs.pend⟩
  rw [hcode]
  exact errNumber_le code

/-! ### The STATUS word -/

/-- STATUS as a number: each field at its place, nothing at the reserved bits (R41). -/
theorem statusWord_toNat (s : State) :
    (statusWord s).toNat = s.bright.toNat * 2 ^ 24 + s.row.toNat * 2 ^ 16 + s.err.toNat * 2 ^ 8 + s.pix.toNat * 2 ^ 4 +
      s.front.toNat * 2 ^ 3 + s.pend.toNat * 2 ^ 2 + s.tie.toNat * 2 + s.init.toNat := by
  simp only [statusWord, toNat_append_add, BitVec.toNat_ofBool, BitVec.toNat_ofNat]
  omega

theorem statusWord_resetWith (p : Params) (epoch : Nat) : statusWord (State.resetWith p epoch) = 0x00000000#32 := by
  apply BitVec.eq_of_toNat_eq
  simp [statusWord_toNat, State.resetWith]

/-- Settles O10: the fields are read off `statusWord_toNat`, each below the weight of the next one. -/
theorem statusRegisterLayout : Obligations.StatusRegisterLayout := by
  unfold Obligations.StatusRegisterLayout
  refine ⟨fun s rest => ⟨fun h => ?_, fun data h => ?_⟩, fun s => ?_, statusWord_resetWith _ _⟩
  · rw [step_read h, portRead_status]
  · exact step_otherWrite h (by decide)
  · have hinit := s.init.toNat_le
    have htie := s.tie.toNat_le
    have hpend := s.pend.toNat_le
    have hfront := s.front.toNat_le
    have hpix := s.pix.toNat_le
    have herr := s.err.isLt
    have hrow := s.row.isLt
    have hbright := s.bright.isLt
    simp only [bits, statusWord_toNat]
    refine ⟨?_, ?_, ?_, ?_, ?_, ?_, ?_, ?_, ?_, ?_, ?_, rfl⟩ <;> omega

/-! ### The scan state -/

theorem scanState_scanning_iff (s : State) : scanState s = .scanning ↔ s.init = true ∧ s.tie = true := by
  unfold scanState
  split <;> simp_all

theorem scanState_idle_of_tie {s : State} (h : s.tie = false) : scanState s = .idle := by
  rw [scanState, h, Bool.and_false]
  rfl

/-- Settles O41: CONFIGURE by its two outcomes, START and STOP by their writes of `TIE`. -/
theorem scanStateFollowsCommands : Obligations.ScanStateFollowsCommands := by
  unfold Obligations.ScanStateFollowsCommands
  intro s
  refine ⟨scanState_scanning_iff s, ?_, ⟨_, rfl, scanState_idle_of_tie rfl, rfl⟩, fun freq hf => ?_⟩
  · rw [stagedGeometryGood_iff]
    by_cases hc : checkGeom s.cfg (stagedDims s.staged) = .ok
    · obtain ⟨m, e⟩ := exec_configure_passes hc
      exact ⟨_, e, fun _ => rfl, fun hbad => absurd hc hbad⟩
    · exact ⟨_, exec_configure_fails hc, fun hgood => absurd hgood hc, fun _ => ⟨rfl, rfl⟩⟩
  · exact ⟨_, execStart_valid hf, rfl, fun hi => (scanState_scanning_iff _).2 ⟨hi, rfl⟩⟩

/-! ### The panel lines -/

theorem lineLevel_undriven {s : State} (h : s.lineEn = false) (v : Bool) : lineLevel s v = .z := by
  rw [lineLevel, h]
  rfl

theorem lineLevel_driven {s : State} (h : s.lineEn = true) (v : Bool) : lineLevel s v = drivenAt v := by
  rw [lineLevel, if_pos h]

theorem eq_lineLevel_of_data1Line {s : State} {v : Level} (h : data1Line s = some v) : v = lineLevel s s.lines.data1 := by
  unfold data1Line at h
  split at h <;> cases h
  rfl

theorem eq_lineLevel_of_addrLine {s : State} {k : Nat} {v : Level} (h : addrLine s k = some v) :
    v = lineLevel s (s.lines.addr.getLsbD k) := by
  unfold addrLine at h
  split at h <;> cases h
  rfl

/-- `OE_N` of a driven block is active, at 0, exactly in the lit steps of a configured one (R186). -/
theorem oeN_driven {s : State} (h : s.lineEn = true) :
    oeN s = if s.init = true ∧ s.duty < s.pwmCnt then .low else .high := by
  rw [oeN, lineLevel_driven h]
  cases s.init with
  | false => rfl
  | true =>
    by_cases hlit : s.duty < s.pwmCnt
    · simp [pwmOff, hlit]
    · simp [pwmOff, hlit, BitVec.not_lt.1 hlit]

/-- Settles O60: the levels by `lineLevel`, the changes of `LINE_EN` by `step_lineEn`. -/
theorem panelLinesFollowLineEnable : Obligations.PanelLinesFollowLineEnable := by
  unfold Obligations.PanelLinesFollowLineEnable
  refine ⟨fun s hz => ?undriven, fun s hd => ?driven, fun s => ?absent, fun s good => ?configure, fun s t h h0 h1 => ?sets,
    fun s t h h1 h0 => ?clears, rfl, fun s t rest hr h => ?reset⟩
  case undriven =>
    have hlevel := lineLevel_undriven hz
    exact ⟨hlevel _, hlevel _, hlevel _, hlevel _, fun v hv => (eq_lineLevel_of_data1Line hv).trans (hlevel _),
      fun k v hv => (eq_lineLevel_of_addrLine hv).trans (hlevel _)⟩
  case driven =>
    have hlevel := lineLevel_driven hd
    refine ⟨oeN_driven hd, hlevel _, hlevel _, hlevel _, fun hdata => ?_, fun k hk => ?_⟩
    · rw [data1Line, if_pos hdata, hlevel]
    · rw [addrLine, if_pos hk, hlevel]
  case absent => exact ⟨fun hdata => if_neg hdata, fun k hk => if_neg hk.not_gt⟩
  case configure =>
    obtain ⟨m, e⟩ := exec_configure_passes ((stagedGeometryGood_iff s).1 good)
    exact ⟨_, e, rfl⟩
  case sets =>
    obtain kept | ⟨-, written⟩ | ⟨cleared, -⟩ := step_lineEn h
    · rw [kept, h0] at h1
      cases h1
    · exact written
    · rw [cleared] at h1
      cases h1
  case clears =>
    obtain kept | ⟨set, -⟩ | ⟨-, offered⟩ := step_lineEn h
    · rw [kept, h1] at h0
      cases h0
    · rw [set] at h0
      cases h0
    · exact offered
  case reset =>
    rw [step_reset hr] at h
    cases h
    rfl

/-! ### CMD and the reset values -/

/-- Settles O11: the two outcomes of the decoder, and the port's answer at 0x0. -/
theorem commandRegisterRunsItsWord : Obligations.CommandRegisterRunsItsWord := by
  unfold Obligations.CommandRegisterRunsItsWord
  refine fun s rest => ⟨fun w h => ⟨fun i hd => ?_, fun e hd => ?_⟩, fun h => ?_⟩
  · rw [step_commandWrite h, runCommand, hd]
  · rw [step_commandWrite h, runCommand, hd]
    rfl
  · rw [step_read h, portRead_command]

/-- Settles O13: after both kinds of reset the block is `State.resetWith`, up to what the bus masters offer and have read. -/
theorem resetValues : Obligations.ResetValues := by
  unfold Obligations.ResetValues
  intro r hr
  have hform : ∃ p n reads agenda, r = { State.resetWith p n with busReads := reads, agenda := agenda } := by
    obtain rfl | ⟨s, rest, ha, h⟩ := hr
    · exact ⟨_, _, _, _, rfl⟩
    · rw [step_reset ha] at h
      cases h
      exact ⟨_, _, _, _, rfl⟩
  have hlut : ∀ s rest, s.agenda = .reset :: rest → step s = .next r → r.cfg.gammaLut = s.cfg.gammaLut :=
    fun s rest _ h => congrArg Params.gammaLut (step_cfg h)
  obtain ⟨p, n, reads, agenda, rfl⟩ := hform
  exact ⟨rfl, rfl, rfl, rfl, rfl, rfl, rfl, rfl, rfl, rfl, rfl, rfl, rfl, rfl, rfl, rfl, rfl,
    statusWord_resetWith p n, rfl, hlut⟩

end Sys2Proof.Machine
end

/-! ## Proofs of the family 20_memory.md

The port's answer to undefined accesses, and the pixel map in the numbers of the active geometry. -/

section
namespace Sys2Proof.Machine

open Sys2Proof.Statements

/-! ### Undefined accesses -/

/-- A read that is not of STATUS answers 0 (R42, R67). -/
theorem portRead_undefined (s : State) {offset : BitVec 3} {bytes : Nat} (h : ¬ (bytes = 4 ∧ offset = 4#3)) :
    portRead s offset bytes = 0#32 := if_neg h

/-- Settles O9: a stray access is neither the command write nor the STATUS read. -/
theorem strayAccessesIgnored : Obligations.StrayAccessesIgnored := by
  unfold Obligations.StrayAccessesIgnored
  intro s rest offset bytes stray
  have notCommand : ¬ (bytes = 4 ∧ offset = 0#3) := fun ⟨hb, ho⟩ => stray ⟨hb, .inl ho⟩
  have notStatus : ¬ (bytes = 4 ∧ offset = 4#3) := fun ⟨hb, ho⟩ => stray ⟨hb, .inr ho⟩
  refine ⟨fun data h => step_otherWrite h notCommand, fun h => ?_⟩
  rw [step_read h, portRead_undefined _ notStatus]

/-! ### The pixel map -/

/-- The model's range test on the active geometry is the statements' one (R121). -/
theorem inRange_iff_insidePanel (s : State) (x y : Int) :
    inRange (activeDims s.active) x y = true ↔ insidePanel s x y := by
  simp [inRange, totalWidth, activeDims]

/-- R62's shift of the column, as a division. -/
theorem pixOff_eq_div (d : Dims) (x y : Nat) : pixOff d x y = y * bytesPerRow d + x / 8 := by
  rw [pixOff, Nat.shiftRight_eq_div_pow]

/-- The mask's one bit is bit `7 - x mod 8`, so that bit 7 is the leftmost column (R62, R63). -/
theorem pixMask_toNat (x : Nat) : (pixMask x).toNat = 2 ^ (7 - x % 8) := by
  have hx : x &&& 7 = x % 8 := Nat.and_two_pow_sub_one_eq_mod x 3
  have shifted : ∀ k : Fin 8, (0x80#8 >>> k.val).toNat = 2 ^ (7 - k.val) := by decide
  rw [pixMask, hx]
  exact shifted ⟨x % 8, Nat.mod_lt _ (by decide)⟩

/-- Settles O27: an offset in range is below `BUFSZ` (`Checked.pixOff_lt`), which a configured block keeps within the
capacity. -/
theorem pixelMapAddressesAndMasks : Obligations.PixelMapAddressesAndMasks := by
  unfold Obligations.PixelMapAddressesAndMasks
  intro s bank x y inv init inside bpr off
  have checked := checked_of_init inv init
  have hoff : pixOff (activeDims s.active) x y = off := pixOff_eq_div ..
  have used : off < bufferSize (activeDims s.active) :=
    hoff ▸ checked.pixOff_lt ((inRange_iff_insidePanel s x y).2 inside)
  exact ⟨congrArg (bankBase s.cfg bank + ·) hoff, used, used.trans_le checked.fits, pixMask_toNat x,
    pixelAt_eq s bank x y⟩

end Sys2Proof.Machine
end

/-! ## Proofs of the family 30_encoding.md

The rows of R84 as opcodes and reserved bits, and the decoder against them; then the round trip from a well-formed command
through its word, on which the examples of R90 and the assembler rest. -/

section
namespace Sys2Proof.Machine

open Sys2Proof.Statements

/-! ### The opcode map -/

/-- A word is its opcode and its low 28 bits. -/
theorem word_eq_iff {w v : Word} :
    w = v ↔ bits w 31 28 = bits v 31 28 ∧ w &&& 0x0FFFFFFF#32 = v &&& 0x0FFFFFFF#32 := by
  have low (u : Word) : (u &&& 0x0FFFFFFF#32).toNat = u.toNat % 2 ^ 28 := Nat.and_two_pow_sub_one_eq_mod u.toNat 28
  refine ⟨fun h => h ▸ ⟨rfl, rfl⟩, fun ⟨hop, hlow⟩ => BitVec.eq_of_toNat_eq ?_⟩
  have hw := w.isLt
  have hv := v.isLt
  have hmod := congrArg BitVec.toNat hlow
  rw [low, low] at hmod
  simp only [bits] at hop
  omega

/-- A mask that covers the opcode keeps it. -/
theorem opcode_and {w mask : Word} (h : bits mask 31 28 = 15) : bits (w &&& mask) 31 28 = bits w 31 28 := by
  have hw := w.isLt
  have hm := mask.isLt
  have hmask : mask.toNat / 2 ^ 28 = 2 ^ 4 - 1 := by
    simp only [bits] at h
    omega
  simp only [bits, BitVec.toNat_and, Nat.and_div_two_pow, hmask, Nat.and_two_pow_sub_one_eq_mod]
  omega

/-- A word fits a row exactly when it has the row's opcode and a 0 at each of the row's reserved bits (R84, R85): every mask
of R84 covers the opcode, and no match has a 1 below it. -/
theorem fits_iff {r : MapRow} (hr : r ∈ specRows) (w : Word) :
    fits w r ↔ bits w 31 28 = bits r.2.1 31 28 ∧ w &&& r.2.2 &&& 0x0FFFFFFF#32 = 0#32 := by
  have covers : ∀ r ∈ specRows, bits r.2.2 31 28 = 15 := by decide
  have bare : ∀ r ∈ specRows, r.2.1 &&& 0x0FFFFFFF#32 = 0#32 := by decide
  rw [fits, word_eq_iff, opcode_and (covers r hr), bare r hr]

/-- The rows of R84 have opcodes of their own, so a word fits at most one of them (R86). -/
theorem fits_unique {r q : MapRow} (hr : r ∈ specRows) (hq : q ∈ specRows) {w : Word} (hwr : fits w r) (hwq : fits w q) :
    r = q := by
  have apart : ∀ r ∈ specRows, ∀ q ∈ specRows, bits r.2.1 31 28 = bits q.2.1 31 28 → r = q := by decide
  obtain ⟨hopr, -⟩ := (fits_iff hr w).1 hwr
  obtain ⟨hopq, -⟩ := (fits_iff hq w).1 hwq
  exact apart r hr q hq (hopr.symm.trans hopq)

/-- The decoder's rows are those of R84. -/
theorem opcodeMap_rows : opcodeMap.map (fun r => (r.mnemonic, r.pattern, r.mask)) = specRows := rfl

/-- Each row of the decoder answers with its own command. -/
theorem fields_mnemonic {r : OpRow} (hr : r ∈ opcodeMap) (w : Word) : (r.fields w).mnemonic = r.mnemonic := by
  simp only [opcodeMap, List.mem_cons, List.not_mem_nil, or_false] at hr
  obtain rfl | rfl | rfl | rfl | rfl | rfl | rfl | rfl | rfl | rfl | rfl := hr <;> rfl

/-- A decoded word fits the row of its command (R84). -/
theorem fits_of_decode {w : Word} {i : Instr} (h : decode w = .ok i) : ∃ r ∈ specRows, fits w r ∧ i.mnemonic = r.1 := by
  unfold decode at h
  split at h <;> cases h
  rename_i r hr
  have hmem := List.mem_of_find?_eq_some hr
  refine ⟨(r.mnemonic, r.pattern, r.mask), ?_, eq_of_beq (List.find?_some hr :), fields_mnemonic hmem w⟩
  rw [← opcodeMap_rows]
  exact List.mem_map_of_mem hmem

/-- A word that fits a row decodes (R86). -/
theorem decode_of_fits {w : Word} {r : MapRow} (hr : r ∈ specRows) (hw : fits w r) : ∃ i, decode w = .ok i := by
  rw [← opcodeMap_rows] at hr
  obtain ⟨q, hq, rfl⟩ := List.mem_map.1 hr
  unfold decode
  split
  · exact ⟨_, rfl⟩
  · rename_i hnone
    exact absurd (beq_iff_eq.2 hw) (List.find?_eq_none.1 hnone q hq)

/-- The decoder on the words that fit a row (R84, R86). -/
theorem fits_iff_decode {r : MapRow} (hr : r ∈ specRows) (w : Word) :
    fits w r ↔ ∃ i, decode w = .ok i ∧ i.mnemonic = r.1 := by
  have named : ∀ r ∈ specRows, ∀ q ∈ specRows, r.1 = q.1 → r = q := by decide
  constructor
  · intro hw
    obtain ⟨i, hi⟩ := decode_of_fits hr hw
    obtain ⟨q, hq, hwq, hname⟩ := fits_of_decode hi
    exact ⟨i, hi, hname.trans (congrArg Prod.fst (fits_unique hq hr hwq hw))⟩
  · rintro ⟨i, hi, hname⟩
    obtain ⟨q, hq, hwq, hnameq⟩ := fits_of_decode hi
    rwa [named r hr q hq (hname.symm.trans hnameq)]

/-- A word that fits no row is illegal (R85, R86). -/
theorem decode_illegal {w : Word} (h : ∀ r ∈ specRows, ¬ fits w r) : ∃ e, decode w = .error e := by
  cases hd : decode w with
  | ok i =>
    obtain ⟨r, hr, hw, -⟩ := fits_of_decode hd
    exact absurd hw (h r hr)
  | error e => exact ⟨e, rfl⟩

/-- Settles O2: the decoder's rows against R84's; a word with an opcode above 0xA fits none of them. -/
theorem opcodeMapIsExact : Obligations.OpcodeMapIsExact := by
  unfold Obligations.OpcodeMapIsExact
  refine ⟨fun r hr w => fits_iff_decode hr w, by decide, fun w hop => ?_, by decide⟩
  have below : ∀ r ∈ specRows, bits r.2.1 31 28 < 0xB := by decide
  refine decode_illegal fun r hr hw => ?_
  obtain ⟨hopr, -⟩ := (fits_iff hr w).1 hw
  exact absurd (below r hr) (by omega)

/-! ### Illegal words -/

/-- Writing a word to CMD runs it on the state as it was before the write was offered (R42, R66). -/
theorem commandStep_eq (w : Word) (s : State) : commandStep w s = runCommand w s := by
  rw [commandStep, State.withFetchWord, tableWord_32]
  exact step_commandWrite (offerCommand_agenda w s)

theorem runCommand_illegal {w : Word} {e : Illegal} (h : decode w = .error e) (s : State) :
    runCommand w s = .next { s with err := 1#4 } := by
  rw [runCommand, h]
  rfl

/-- Each opcode from 0x0 to 0xA has a row (R84). -/
theorem exists_row_of_opcode {n : Nat} (h : n < 0xB) : ∃ r ∈ specRows, n = bits r.2.1 31 28 := by
  have rows : ∀ k : Fin 11, ∃ r ∈ specRows, k.val = bits r.2.1 31 28 := by decide
  exact rows ⟨n, h⟩

/-- Settles O7: a word with the opcode of a row fits it unless it has a 1 in a reserved bit (`fits_iff`). -/
theorem illegalWordOnlySetsErr : Obligations.IllegalWordOnlySetsErr := by
  unfold Obligations.IllegalWordOnlySetsErr
  intro w h
  constructor
  · rcases Nat.lt_or_ge (bits w 31 28) 0xB with hop | hop
    · obtain ⟨r, hr, hopr⟩ := exists_row_of_opcode hop
      exact .inr ⟨r, hr, hopr, fun hzero => h r hr ((fits_iff hr w).2 ⟨hopr, hzero⟩)⟩
    · exact .inl hop
  · intro s
    obtain ⟨e, he⟩ := decode_illegal h
    rw [commandStep_eq, runCommand_illegal he]

/-! ### Encoding -/

/-- The word of a well-formed command is R88's number. -/
theorem encode_toNat {i : Instr} (h : i.wellFormed = true) : (encode i).toNat = assembledNumber i := by
  cases i with
  | nop => exact Laws.EncodedNumber.nop h
  | setgeom0 width height => exact Laws.EncodedNumber.setgeom0 width height h
  | setgeom1 chain scan lanes => exact Laws.EncodedNumber.setgeom1 chain scan lanes h
  | configure => exact Laws.EncodedNumber.configure h
  | setpixel x y on => exact Laws.EncodedNumber.setpixel x y on h
  | fill on => exact Laws.EncodedNumber.fill on h
  | setbright value => exact Laws.EncodedNumber.setbright value h
  | swap copy => exact Laws.EncodedNumber.swap copy h
  | start freq => exact Laws.EncodedNumber.start freq h
  | stop => exact Laws.EncodedNumber.stop h
  | getpixel x y => exact Laws.EncodedNumber.getpixel x y h

/-- The column field of a word that holds a column (R82, R83). -/
theorem fieldX_of_toNat {w : Word} {x : Int} (hx : columnEncodable x = true)
    (hw : w.toNat % 2 ^ 14 = (x % 2 ^ 14).toNat) : fieldX w = x := by
  simp only [columnEncodable, decide_eq_true_eq] at hx
  rw [fieldX_eq]
  split <;> omega

/-- The row field of a word that holds a row (R82, R83). -/
theorem fieldY_of_toNat {w : Word} {y : Int} (hy : rowEncodable y = true)
    (hw : w.toNat / 2 ^ 14 % 2 ^ 13 = (y % 2 ^ 13).toNat) : fieldY w = y := by
  simp only [rowEncodable, decide_eq_true_eq] at hy
  rw [fieldY_eq]
  split <;> omega

/-- The decoder gives a well-formed command back from its word: R88's number lies in the command's row, with the operands as
its digits (R82, R86, R88). -/
theorem decode_encode {i : Instr} (h : i.wellFormed = true) : decode (encode i) = .ok i := by
  have hn := encode_toNat h
  generalize encode i = w at hn ⊢
  rw [decode_ok_iff]
  cases i with
  | nop | configure | stop =>
    simp only [reduceCtorEq, and_false, and_true, false_or, or_false]
    exact hn
  | setgeom0 _ _ | setgeom1 _ _ _ | setbright _ | start _ =>
    simp only [Instr.wellFormed, Bool.and_eq_true, decide_eq_true_eq] at h
    simp only [assembledNumber] at hn
    simp only [reduceCtorEq, and_false, false_or, or_false, Instr.setgeom0.injEq, Instr.setgeom1.injEq,
      Instr.setbright.injEq, Instr.start.injEq]
    omega
  | fill on | swap on =>
    simp only [reduceCtorEq, and_false, false_or, or_false, Instr.fill.injEq, Instr.swap.injEq]
    cases on <;> simp [hn, assembledNumber]
  | setpixel x y on =>
    obtain ⟨hx, hy⟩ := (Bool.and_eq_true _ _).mp h
    simp only [reduceCtorEq, and_false, false_or, or_false, Instr.setpixel.injEq]
    simp only [assembledNumber] at hn
    have hle := on.toNat_le
    have hbit : w.toNat / 2 ^ 27 % 2 = on.toNat := by omega
    have hon : on = decide (w.toNat / 2 ^ 27 % 2 = 1) := by
      rw [hbit]
      cases on <;> rfl
    exact ⟨by omega, (fieldX_of_toNat hx (by omega)).symm, (fieldY_of_toNat hy (by omega)).symm, hon⟩
  | getpixel x y =>
    obtain ⟨hx, hy⟩ := (Bool.and_eq_true _ _).mp h
    simp only [reduceCtorEq, and_false, false_or, Instr.getpixel.injEq]
    simp only [assembledNumber] at hn
    exact ⟨by omega, (fieldX_of_toNat hx (by omega)).symm, (fieldY_of_toNat hy (by omega)).symm⟩

/-- Settles O1: the words are computed; each decodes because its command is well formed. -/
theorem specWordsDecodeAndEncode : Obligations.SpecWordsDecodeAndEncode := by
  unfold Obligations.SpecWordsDecodeAndEncode
  refine ⟨rfl, fun q hq => ?_⟩
  have encoded : q.1.wellFormed = true ∧ encode q.1 = q.2 := by
    revert q
    decide
  obtain ⟨wf, hword⟩ := encoded
  exact ⟨hword ▸ decode_encode wf, hword⟩

/-! ### The assembler -/

theorem assembleOp_ok {op : AsmOp} (h : ∀ i ∈ expandOp op, i.wellFormed = true) :
    assembleOp op = .ok ((expandOp op).map encode) := if_pos (List.all_eq_true.2 h)

theorem assembleOp_refuses {op : AsmOp} {i : Instr} (hi : i ∈ expandOp op) (h : i.wellFormed = false) :
    assembleOp op = .error .outOfRange :=
  if_neg fun hall => absurd (List.all_eq_true.1 hall i hi) (by simp [h])

/-- Settles O59: the assembler's words are the encodings of the expansion, and `decode_encode` reads each one back. -/
theorem assemblerEmitsOrRefuses : Obligations.AssemblerEmitsOrRefuses := by
  unfold Obligations.AssemblerEmitsOrRefuses
  refine fun op => ⟨fun wf => ⟨_, assembleOp_ok wf, List.length_map _, fun k h h' => ?_⟩,
    fun ⟨i, hi, bad⟩ => assembleOp_refuses hi bad, rfl, rfl, fun _ _ => rfl, fun _ _ _ _ _ => rfl⟩
  rw [List.getElem_map]
  exact decode_encode (wf _ (List.getElem_mem h'))

end Sys2Proof.Machine
end

/-! ## Proofs of the family 40_configuration.md

The tests of R105 in the words of the statements, then the two outcomes of CONFIGURE; after them NOP and the two commands that
stage the geometry. -/

section
namespace Sys2Proof.Machine

open Sys2Proof.Statements

/-! ### The geometry checks -/

/-- R105's test of the scan depth refuses every number of 8 bits that is not a power of two. -/
theorem scanTest_fails_iff {n : Nat} (hn : n < 256) :
    (n = 0 ∨ n &&& (n - 1) ≠ 0) ↔ n ∉ [1, 2, 4, 8, 16, 32, 64, 128] := by
  have depths : ∀ k : Fin 256, (k.val = 0 ∨ k.val &&& (k.val - 1) ≠ 0) ↔ k.val ∉ [1, 2, 4, 8, 16, 32, 64, 128] := by
    decide +kernel
  exact depths ⟨n, hn⟩

/-- A power of two needs more address lines than there are exactly when it is above what they count. -/
theorem lines_lt_log2_iff {n k : Nat} (hpow : n = 2 ^ Nat.log2 n) : k < Nat.log2 n ↔ 2 ^ k < n := by
  conv_rhs => rw [hpow]
  exact (Nat.pow_lt_pow_iff_right Nat.one_lt_two).symm

/-- `CheckGeom` answers 0 or one of the codes from 4 up (R105, R220). -/
theorem checkGeom_ok_or_code (p : Params) (d : Dims) :
    checkGeom p d = .ok ∨ 4 ≤ (errNumber (checkGeom p d)).toNat := by
  unfold checkGeom
  split_ifs <;> decide

/-- CONFIGURE completes in every state with the code of `CheckGeom` in `ERR` (R104, R226). -/
theorem exec_configure_err (s : State) :
    ∃ t, exec .configure s = .next t ∧ t.err = errNumber (checkGeom s.cfg (stagedDims s.staged)) := by
  by_cases hc : checkGeom s.cfg (stagedDims s.staged) = .ok
  · obtain ⟨m, e⟩ := exec_configure_passes hc
    exact ⟨_, e, by rw [hc]; rfl⟩
  · exact ⟨_, exec_configure_fails hc, configFail_err ..⟩

/-- Settles O22: test by test, `checkGeom` asks what R105 asks; the address test compares powers of two, since the scan test
has passed before it. -/
theorem geometryChecksInOrder : Obligations.GeometryChecksInOrder := by
  unfold Obligations.GeometryChecksInOrder
  intro s
  obtain ⟨t, e, herr⟩ := exec_configure_err s
  refine ⟨t, e, ?_⟩
  intro tw lanes depth
  have hlt : depth < 256 := s.staged.scan.isLt
  simp only [herr, checkGeom, apply_ite errNumber, apply_ite BitVec.toNat]
  refine ite_congr ?width (fun _ => rfl) fun _ =>
    ite_congr (propext (scanTest_fails_iff hlt)) (fun _ => rfl) fun hdepth =>
      ite_congr (propext (lines_lt_log2_iff ?power)) (fun _ => rfl) fun _ => rfl
  case width =>
    rw [Nat.dvd_iff_mod_eq_zero]
    rfl
  case power =>
    obtain ⟨hpos, hbits⟩ := not_or.1 (mt (scanTest_fails_iff hlt).1 hdepth)
    exact scan_eq_pow hlt (Nat.pos_of_ne_zero hpos) (not_not.1 hbits)

/-! ### The two outcomes of CONFIGURE -/

/-- `L <- G_L + 1` in the two bits of `L` (R106). -/
theorem activate_eq (g : Staged) :
    activate g = ⟨g.width, g.height, g.chain, g.scan, g.lanesBit.setWidth 2 + 1#2⟩ := by
  have lanes : ∀ b : BitVec 1, BitVec.ofNat 2 (b.toNat + 1) = b.setWidth 2 + 1#2 := by decide
  rw [activate, lanes]

/-- The used bytes of the two banks, by their addresses (R60). -/
theorem inBank_iff (p : Params) (d : Dims) (a : Nat) :
    (InBank p d false a ∨ InBank p d true a) ↔
      a < bufferSize d ∨ (p.fbCapacity ≤ a ∧ a < p.fbCapacity + bufferSize d) := by
  simp [InBank, bankBase]

/-- Settles O23: the state and the bytes of `configApply_spec`. -/
theorem configureAppliesStagedGeometry : Obligations.ConfigureAppliesStagedGeometry := by
  unfold Obligations.ConfigureAppliesStagedGeometry
  intro s good
  have passes := (stagedGeometryGood_iff s).1 good
  obtain ⟨m, applied, bytes, -⟩ := configApply_spec passes
  rw [activate_eq] at applied
  refine ⟨_, (execConfigure_passes passes).trans (congrArg answer applied), rfl, rfl, fun a => ?_⟩
  exact (bytes a).trans (if_congr (inBank_iff ..) rfl rfl)

/-- Settles O24: `configFail` with the code of `CheckGeom`. -/
theorem configureFailureStopsScanning : Obligations.ConfigureFailureStopsScanning := by
  unfold Obligations.ConfigureFailureStopsScanning
  intro s bad
  have fails := mt (stagedGeometryGood_iff s).2 bad
  refine ⟨_, exec_configure_fails fails, rfl, rfl, (checkGeom_ok_or_code _ _).resolve_left fails, scanState_idle_of_tie rfl,
    fun driven => ?_⟩
  rw [oeN_driven (s := configFail _ s) driven, configFail_init]
  exact if_neg (by simp)

/-! ### NOP and the staged geometry -/

/-- The row of opcode 0x0 is NOP's, which the word 0 alone fits (R84, R101). -/
theorem eq_zero_of_fits_opcode_zero {w : Word} {r : MapRow} (hr : r ∈ specRows) (hw : fits w r) (hop : bits w 31 28 = 0) :
    w = 0x00000000#32 := by
  have only : ∀ r ∈ specRows, bits r.2.1 31 28 = 0 → r = ("NOP", 0x00000000#32, 0xFFFFFFFF#32) := by decide
  obtain ⟨hopr, -⟩ := (fits_iff hr w).1 hw
  obtain rfl := only r hr (hopr.symm.trans hop)
  exact BitVec.and_allOnes.symm.trans hw

/-- Settles O19: a word of opcode 0x0 other than 0 fits no row. -/
theorem nopOnlyClearsErr : Obligations.NopOnlyClearsErr := by
  unfold Obligations.NopOnlyClearsErr
  refine ⟨fun s => rfl, decode_ok_iff.2 (.inl ⟨rfl, rfl⟩), fun w hop hne => ?_⟩
  obtain ⟨e, illegal⟩ := decode_illegal fun r hr hw => hne (eq_zero_of_fits_opcode_zero hr hw hop)
  exact ⟨⟨e, illegal⟩, fun s => (commandStep_eq w s).trans (runCommand_illegal illegal s)⟩

/-- The words of SETGEOM0 and their operands (R82, R84). -/
theorem decode_setgeom0 {w : Word} (h : w &&& 0xFE000000#32 = 0x10000000#32) :
    decode w = .ok (.setgeom0 (bits w 12 0) (bits w 24 13)) := by
  have row : w.toNat / 2 ^ 25 = 8 := (mask_iff (p := 0x10000000#32) 25 (by decide) (by decide)).1 h
  simp only [bits, pow_zero, Nat.div_one]
  exact decode_ok_iff.2 (.inr (.inl ⟨row, rfl⟩))

/-- The words of SETGEOM1 and their operands, the lane count being `LANES + 1` (R82, R83, R84). -/
theorem decode_setgeom1 {w : Word} (h : w &&& 0xFFFE0000#32 = 0x20000000#32) :
    decode w = .ok (.setgeom1 (bits w 7 0) (bits w 15 8) (bits w 16 16 + 1)) := by
  have row : w.toNat / 2 ^ 17 = 4096 := (mask_iff (p := 0x20000000#32) 17 (by decide) (by decide)).1 h
  simp only [bits, pow_zero, Nat.div_one]
  exact decode_ok_iff.2 (.inr (.inr (.inl ⟨row, rfl⟩)))

/-- Settles O20: operands that a word can hold fit their registers. -/
theorem setgeom0StagesWidthAndHeight : Obligations.Setgeom0StagesWidthAndHeight := by
  unfold Obligations.Setgeom0StagesWidthAndHeight
  refine ⟨fun s width height hw hh => ⟨_, rfl, rfl, ?_, ?_, rfl, rfl, rfl⟩, fun w h => decode_setgeom0 h⟩
  · exact Nat.mod_eq_of_lt (by omega)
  · exact Nat.mod_eq_of_lt (by omega)

/-- Settles O21: operands that a word can hold fit their registers, the lane count less 1 its one bit. -/
theorem setgeom1StagesChainScanLanes : Obligations.Setgeom1StagesChainScanLanes := by
  unfold Obligations.Setgeom1StagesChainScanLanes
  refine ⟨fun s chain scan lanes hc hs hl => ⟨_, rfl, rfl, ?_, ?_, ?_, rfl, rfl⟩, fun w h => decode_setgeom1 h⟩
  · exact Nat.mod_eq_of_lt (by omega)
  · exact Nat.mod_eq_of_lt (by omega)
  · obtain rfl | rfl := hl <;> rfl

end Sys2Proof.Machine
end

/-! ## Proofs of the family 41_drawing.md

What the pixel write of SETPIXEL leaves in every byte, and that the block's own steps keep the banks, so that GETPIXEL reads
back what was drawn; then FILL, and that filling again changes nothing. -/

section
namespace Sys2Proof.Machine

open Sys2Proof.Statements

/-! ### The pixel write -/

/-- R62's mask, with the column's place in its byte as a remainder. -/
theorem pixMask_eq_mod (x : Nat) : pixMask x = 0x80#8 >>> (x % 8) := by
  rw [pixMask, show x &&& 7 = x % 8 from Nat.and_two_pow_sub_one_eq_mod x 3]

/-- SETPIXEL out of range (R121). -/
theorem exec_setpixel_outside {s : State} (init : s.init = true) {x y : Int} (outside : ¬ insidePanel s x y) (on : Bool) :
    exec (.setpixel x y on) s = .next (succeed s) :=
  execSetpixel_outside init (mt (inRange_iff_insidePanel s x y).1 outside) on

/-- SETPIXEL in range, byte by byte (R122). -/
theorem exec_setpixel_inside {s : State} (inv : s.Inv) (init : s.init = true) {x y : Int} (inside : insidePanel s x y)
    (on : Bool) :
    let a := pixAddr s.cfg (activeDims s.active) (!s.front) x y
    ∃ m, exec (.setpixel x y on) s = .next (succeed { s with mem := m }) ∧
      ∀ b, byteAt { s with mem := m } b = if b = a then drawBit (byteAt s a) (pixMask x.toNat) on else byteAt s b :=
  ⟨_, execSetpixel_inside init (checked_of_init inv init) ((inRange_iff_insidePanel s x y).2 inside) on,
    fun b => byteAt_put s _ b _⟩

/-- The words of SETPIXEL and their operands (R82, R84). -/
theorem decode_setpixel {w : Word} (h : w &&& 0xF0000000#32 = 0x40000000#32) :
    decode w = .ok (.setpixel (sextX w) (sextY w) (decide (bits w 27 27 = 1))) := by
  have row : w.toNat / 2 ^ 28 = 4 := (mask_iff (p := 0x40000000#32) 28 (by decide) (by decide)).1 h
  have column : sextX w = fieldX w := BitVec.toInt_signExtend_of_le (by decide)
  have line : sextY w = fieldY w := BitVec.toInt_signExtend_of_le (by decide)
  rw [column, line]
  exact decode_ok_iff.2 (.inr (.inr (.inr (.inr (.inl ⟨row, rfl⟩)))))

/-- Settles O25: the byte that SETPIXEL writes is `drawBit` of the byte that was there. -/
theorem setpixelWritesOneByte : Obligations.SetpixelWritesOneByte := by
  unfold Obligations.SetpixelWritesOneByte
  refine ⟨fun s x y on inv init => ?_, fun s x y on h => execSetpixel_unconfigured h x y on, fun w h => decode_setpixel h⟩
  by_cases inside : insidePanel s x y
  · obtain ⟨m, ran, bytes⟩ := exec_setpixel_inside inv init inside on
    refine ⟨_, ran, rfl, fun _ => ?_, absurd inside⟩
    rw [← pixMask_eq_mod]
    exact ⟨(bytes _).trans (if_pos rfl), fun b hb => (bytes b).trans (if_neg hb)⟩
  · exact ⟨_, exec_setpixel_outside init inside on, rfl, fun h => absurd h inside, fun _ => rfl⟩

/-! ### A pixel across the block's own steps -/

/-- The pixel of the byte that SETPIXEL writes back (R122). -/
theorem drawBit_column (b : Byte) (x : Nat) (on : Bool) : (drawBit b (pixMask x) on &&& pixMask x != 0#8) = on := by
  rw [byte_column, drawBit_bit _ _ _ _ (by omega), if_pos rfl]

/-- After SETPIXEL in range, the back bank's pixel is the value drawn (R122). -/
theorem exec_setpixel_draws {s : State} (inv : s.Inv) (init : s.init = true) {x y : Int} (inside : insidePanel s x y)
    (on : Bool) :
    ∃ m, exec (.setpixel x y on) s = .next (succeed { s with mem := m }) ∧
      pixelAt (succeed { s with mem := m }) (!s.front) x.toNat y.toNat = on := by
  obtain ⟨m, ran, bytes⟩ := exec_setpixel_inside inv init inside on
  have written := (bytes _).trans (if_pos rfl)
  exact ⟨m, ran, (congrArg (· &&& pixMask x.toNat != 0#8) written).trans (drawBit_column _ _ on)⟩

/-- A configured block whose tick stays inside the framebuffer (R44, R60). -/
structure ScanReady (s : State) : Prop where
  init : s.init = true
  checked : Checked s.cfg (activeDims s.active)
  lanes : s.active.lanes = 1 ∨ s.active.lanes = 2
  row : s.row.toNat < s.active.scan.toNat

theorem scanReady_of_inv {s : State} (inv : s.Inv) (init : s.init = true) : ScanReady s :=
  ⟨init, checked_of_init inv init, inv.lanes init, inv.rule.row init⟩

/-- Two states have the same for all that SETPIXEL, FILL and GETPIXEL read: the banks, their roles, and the geometry of
their pixels. -/
structure SameBanks (s t : State) : Prop where
  init : t.init = s.init
  front : t.front = s.front
  active : t.active = s.active
  mem : t.mem = s.mem
  cfg : t.cfg = s.cfg
  epoch : t.epoch = s.epoch

theorem SameBanks.trans {s t u : State} (h : SameBanks s t) (h' : SameBanks t u) : SameBanks s u :=
  ⟨h'.init.trans h.init, h'.front.trans h.front, h'.active.trans h.active, h'.mem.trans h.mem, h'.cfg.trans h.cfg,
    h'.epoch.trans h.epoch⟩

theorem SameBanks.pixelAt_eq {s t : State} (h : SameBanks s t) (bank : Bool) (x y : Nat) :
    pixelAt t bank x y = pixelAt s bank x y := by
  simp only [pixelAt, h.cfg, h.active, byteAt_congr h.mem h.epoch]

theorem SameBanks.insidePanel_iff {s t : State} (h : SameBanks s t) (x y : Int) : insidePanel t x y ↔ insidePanel s x y := by
  simp only [insidePanel, h.active]

theorem ScanReady.of_sameBanks {s t : State} (h : ScanReady s) (same : SameBanks s t)
    (row : t.row.toNat < s.active.scan.toNat) : ScanReady t where
  init := same.init.trans h.init
  checked := by rw [same.cfg, same.active]; exact h.checked
  lanes := by rw [same.active]; exact h.lanes
  row := by rw [same.active]; exact row

theorem sameBanks_agenda (s : State) (agenda : List Input) : SameBanks s { s with agenda := agenda } :=
  ⟨rfl, rfl, rfl, rfl, rfl, rfl⟩

theorem sameBanks_timerExpire (s : State) : SameBanks s (timerExpire s) := by constructor <;> simp

theorem sameBanks_blockClock (s : State) : SameBanks s (blockClock s) := by constructor <;> simp

theorem sameBanks_runTick {s t : State} (h : runTick s = .next t) : SameBanks s t := by
  rw [(runTick_frame h).1]
  exact ⟨rfl, rfl, rfl, rfl, rfl, rfl⟩

/-- A tick of a configured block completes and leaves it ready for the next one: `ROW` stays below the scan depth (R166). -/
theorem runTick_ready {s : State} (h : ScanReady s) : ∃ t, runTick s = .next t ∧ t.agenda = s.agenda ∧ ScanReady t := by
  have ran := runTick_configured h.init h.checked h.lanes h.row
  refine ⟨_, ran, rfl, h.of_sameBanks (sameBanks_runTick ran) ?_⟩
  rw [BitVec.toNat_ofNat]
  exact (Nat.mod_le _ _).trans_lt (Nat.mod_lt _ (Nat.zero_lt_of_lt h.row))

/-- A timer expiry, a turn of the scan engine or a block clock completes and does not write the framebuffer (R127). -/
theorem runInput_ofTheBlock {s : State} {i : Input} (h : ScanReady s) (own : ofTheBlock i) :
    ∃ t, runInput i s = .next t ∧ t.agenda = s.agenda ∧ ScanReady t ∧ SameBanks s t := by
  obtain rfl | rfl | rfl := own
  · have same := sameBanks_timerExpire s
    exact ⟨_, rfl, timerExpire_agenda s, h.of_sameBanks same (by simpa using h.row), same⟩
  · simp only [runInput, serveTick]
    split
    · obtain ⟨t, ran, left, ready⟩ := runTick_ready h
      exact ⟨t, ran, left, ready, sameBanks_runTick ran⟩
    · exact ⟨s, rfl, rfl, h, sameBanks_agenda s s.agenda⟩
  · have same := sameBanks_blockClock s
    exact ⟨_, rfl, blockClock_agenda s, h.of_sameBanks same (by simpa using h.row), same⟩

/-- Any run of the block's own steps completes and keeps the banks. -/
theorem runSteps_ofTheBlock {inputs : List Input} (own : ∀ i ∈ inputs, ofTheBlock i) {s : State} (h : ScanReady s)
    (offered : s.agenda = inputs) :
    ∃ t, runSteps inputs.length s = .next t ∧ ScanReady t ∧ SameBanks s t := by
  induction inputs generalizing s with
  | nil => exact ⟨s, rfl, h, sameBanks_agenda s s.agenda⟩
  | cons i rest ih =>
    obtain ⟨own_i, own_rest⟩ := List.forall_mem_cons.1 own
    have taken := sameBanks_agenda s rest
    obtain ⟨t, ran_i, left, ready, same⟩ := runInput_ofTheBlock (h.of_sameBanks taken h.row) own_i
    obtain ⟨u, ran_rest, ready', same'⟩ := ih own_rest ready left
    refine ⟨u, ?_, ready', (taken.trans same).trans same'⟩
    simp only [List.length_cons, runSteps, step_cons offered, ran_i]
    exact ran_rest

/-- GETPIXEL in range puts the back bank's pixel into `PIX` (R128). -/
theorem exec_getpixel_inside {s : State} (h : ScanReady s) {x y : Int} (inside : insidePanel s x y) :
    exec (.getpixel x y) s = .next (succeed { s with pix := pixelAt s (!s.front) x.toNat y.toNat }) :=
  execGetpixel_inside h.init h.checked ((inRange_iff_insidePanel s x y).2 inside)

/-- Settles O29: `exec_setpixel_draws` sets the pixel that GETPIXEL reads, and the steps in between keep the banks
(`runSteps_ofTheBlock`). -/
theorem setpixelThenGetpixelAcrossTicks : Obligations.SetpixelThenGetpixelAcrossTicks := by
  unfold Obligations.SetpixelThenGetpixelAcrossTicks
  refine ⟨fun s x y on between inv init inside own => ?_,
    fun s x y on init outside => ⟨_, exec_setpixel_outside init outside on, rfl⟩⟩
  obtain ⟨m, drew, drawn⟩ := exec_setpixel_draws inv init inside on
  obtain ⟨init', checked, lanes, row⟩ := scanReady_of_inv inv init
  obtain ⟨u, ran, ready, same⟩ := runSteps_ofTheBlock own
    (s := { succeed { s with mem := m } with agenda := between }) ⟨init', checked, lanes, row⟩ rfl
  refine ⟨_, u, _, drew, ran, exec_getpixel_inside ready ((same.insidePanel_iff x y).2 inside), ?_, rfl⟩
  change pixelAt u (!u.front) x.toNat y.toNat = on
  rw [same.pixelAt_eq, same.front]
  exact drawn

/-! ### FILL -/

/-- A filling loop that answered stayed inside the space (R60). -/
theorem fillBytes_range {base n : Nat} {v : Byte} {s t : State} (h : fillBytes base v (n + 1) s = .ok t) :
    base + (n + 1) ≤ spaceSize s.cfg := by
  simp only [fillBytes] at h
  split at h
  · cases h
  · rename_i u hu
    rw [fillBytes_frame hu] at h
    by_contra beyond
    rw [memWrite, if_neg (by simp only; omega)] at h
    cases h

/-- Filling once more, after anything that keeps the bytes, changes nothing. -/
theorem fillBytes_again {base n : Nat} {v : Byte} {s t : State} (h : fillBytes base v n s = .ok t) (u : State)
    (mem : u.mem = t.mem) (cfg : u.cfg = s.cfg) : fillBytes base v n u = .ok u := by
  cases n with
  | zero => rfl
  | succ n =>
    have range := fillBytes_range h
    obtain ⟨m, filled, -, -, listed, -⟩ := fillBytes_spec base v (n + 1) s range
    obtain rfl : { s with mem := m } = t := Except.ok.inj (filled.symm.trans h)
    exact fillBytes_idem base v (n + 1) u (cfg ▸ range) (mem ▸ listed)

/-- FILL twice is FILL once (R124, R126). -/
theorem exec_fill_again {s t : State} {on : Bool} (h : exec (.fill on) s = .next t) : exec (.fill on) t = .next t := by
  change execFill on s = .next t at h
  change execFill on t = .next t
  cases init : s.init with
  | false =>
    rw [execFill_unconfigured init] at h
    cases h
    exact execFill_unconfigured (s := raiseCmdError .notInit s) init on
  | true =>
    rw [execFill, if_pos init] at h
    obtain ⟨u, filled, rfl⟩ := answer_succeed h
    have frame := fillBytes_frame filled
    rw [frame] at filled ⊢
    rw [execFill, if_pos (show (succeed { s with mem := u.mem }).init = true from init)]
    exact congrArg (fun r => answer (r.map succeed)) (fillBytes_again filled (succeed { s with mem := u.mem }) rfl rfl)

/-- FILL on a configured block, byte by byte (R124). -/
theorem exec_fill_configured {s : State} (inv : s.Inv) (init : s.init = true) (on : Bool) :
    ∃ m, exec (.fill on) s = .next (succeed { s with mem := m }) ∧
      ∀ a, byteAt { s with mem := m } a =
        if InBank s.cfg (activeDims s.active) (!s.front) a then (if on then 0xFF#8 else 0x00#8) else byteAt s a := by
  obtain ⟨m, ran, bytes, -⟩ := execFill_configured init (checked_of_init inv init) on
  exact ⟨m, ran, bytes⟩

/-- Every pixel of an all-on or all-off byte. -/
theorem filledByte_column (on : Bool) (x : Nat) : ((if on then 0xFF#8 else 0x00#8) &&& pixMask x != 0#8) = on := by
  have lit : (BitVec.allOnes 8).getLsbD (7 - x % 8) = true := by
    rw [BitVec.getLsbD_allOnes]
    exact decide_eq_true (by omega)
  rw [byte_column]
  cases on
  · exact BitVec.getLsbD_zero
  · exact lit

/-- A pixel in range lies in a used byte of its bank (R62, R64). -/
theorem inBank_of_insidePanel {s : State} (inv : s.Inv) (init : s.init = true) (bank : Bool) {x y : Nat}
    (inside : insidePanel s x y) :
    InBank s.cfg (activeDims s.active) bank (bankBase s.cfg bank + pixOff (activeDims s.active) x y) :=
  ⟨Nat.le_add_right _ _, Nat.add_lt_add_left
    ((checked_of_init inv init).pixOff_lt ((inRange_iff_insidePanel s x y).2 inside)) _⟩

/-- The words of FILL and their operand (R82, R84). -/
theorem decode_fill {w : Word} (h : w &&& 0xFFFFFFFE#32 = 0x50000000#32) :
    decode w = .ok (.fill (decide (bits w 0 0 = 1))) := by
  have row : w.toNat / 2 = 671088640 := (mask_iff (p := 0x50000000#32) 1 (by decide) (by decide)).1 h
  simp only [bits, pow_zero, Nat.div_one]
  exact decode_ok_iff.2 (.inr (.inr (.inr (.inr (.inr (.inl ⟨row, rfl⟩))))))

/-- Settles O30: the bytes of FILL's loop, of which every pixel in range is one bit. -/
theorem fillWritesBackBank : Obligations.FillWritesBackBank := by
  unfold Obligations.FillWritesBackBank
  refine ⟨fun s on inv init => ?_, fun s on h => execFill_unconfigured h on, fun w h => decode_fill h⟩
  obtain ⟨m, ran, bytes⟩ := exec_fill_configured inv init on
  refine ⟨_, ran, rfl, bytes, fun x y inside => ?_, exec_fill_again ran⟩
  have filled := (bytes _).trans (if_pos (inBank_of_insidePanel inv init (!s.front) inside))
  exact (congrArg (· &&& pixMask x != 0#8) filled).trans (filledByte_column on x)

/-- Settles O31: CLEAR is FILL 0, for which `exec_fill_again` holds in every state. -/
theorem clearTwiceIsClearOnce : Obligations.ClearTwiceIsClearOnce := by
  unfold Obligations.ClearTwiceIsClearOnce
  refine ⟨rfl, assembleOp_ok (op := .clear) (by decide), fun s inv init => ?_, fun s t on h => exec_fill_again h⟩
  obtain ⟨m, ran, bytes⟩ := exec_fill_configured inv init false
  exact ⟨_, ran, rfl, fun a used => (bytes a).trans (if_pos used)⟩

end Sys2Proof.Machine
end

/-! ## Proofs of the family 42_double_buffer.md

The copy of SWAP by offsets into the two banks, and the words of SWAP. -/

section
namespace Sys2Proof.Machine

open Sys2Proof.Statements

/-- SWAP with copy on a configured block (R143): each used byte of the new back bank, at its offset, and every other byte. -/
theorem exec_swap_copy {s : State} (inv : s.Inv) (init : s.init = true) :
    ∃ m, exec (.swap true) s = .next (succeed { exchangeRoles s with mem := m }) ∧
      (∀ o, o < bufferSize (activeDims s.active) →
        byteAt { s with mem := m } (bankBase s.cfg s.front + o) = byteAt s (bankBase s.cfg (!s.front) + o)) ∧
      ∀ a, ¬ InBank s.cfg (activeDims s.active) s.front a → byteAt { s with mem := m } a = byteAt s a := by
  obtain ⟨m, ran, bytes, -⟩ := execSwap_copy init (checked_of_init inv init)
  refine ⟨m, ran, fun o used => ?_, fun a outside => (bytes a).trans (if_neg outside)⟩
  have copied := (bytes _).trans (if_pos ⟨Nat.le_add_right _ o, Nat.add_lt_add_left used _⟩)
  rwa [Nat.add_sub_cancel_left] at copied

/-- The words of SWAP and their operand (R84, R141). -/
theorem decode_swap {w : Word} (h : w &&& 0xFFFFFFFE#32 = 0x70000000#32) :
    decode w = .ok (.swap (decide (bits w 0 0 = 1))) := by
  have row : w.toNat / 2 = 939524096 := (mask_iff (p := 0x70000000#32) 1 (by decide) (by decide)).1 h
  simp only [bits, pow_zero, Nat.div_one]
  exact decode_ok_iff.2 (.inr (.inr (.inr (.inr (.inr (.inr (.inr (.inl ⟨row, rfl⟩))))))))

/-- Settles O34: without copy SWAP is `exchangeRoles` alone; with copy its bytes are those of `exec_swap_copy`. -/
theorem swapExchangesAndCopies : Obligations.SwapExchangesAndCopies := by
  unfold Obligations.SwapExchangesAndCopies
  refine ⟨fun s copy inv init => ?_, fun s copy h => execSwap_unconfigured h copy, fun w h => decode_swap h⟩
  cases copy with
  | false => exact ⟨_, execSwap_exchange init, rfl, fun _ => rfl, nofun⟩
  | true =>
    obtain ⟨m, ran, copied, kept⟩ := exec_swap_copy inv init
    exact ⟨_, ran, rfl, nofun, fun _ => ⟨copied, kept⟩⟩

end Sys2Proof.Machine
end

/-! ## Proofs of the family 43_scan_engine.md

The row group of a tick and the whole effect of the scan engine's turn; a frame, by induction on its ticks; then START and STOP,
and the tick timer. -/

section
namespace Sys2Proof.Machine

open Sys2Proof.Statements

/-! ### The row group of a tick -/

/-- A scan depth that passed the checks is at most 128, so every row group of it fits the seven bits of `ROW` (R105). -/
theorem scan_le_of_checked {s : State} (h : Checked s.cfg (activeDims s.active)) : s.active.scan.toNat ≤ 2 ^ 7 := by
  have power : s.active.scan.toNat = 2 ^ Nat.log2 s.active.scan.toNat := scan_eq_pow s.active.scan.isLt h.scanPos h.scanBits
  have bound : Nat.log2 s.active.scan.toNat < 8 :=
    (Nat.pow_lt_pow_iff_right Nat.one_lt_two).1 (power.symm.trans_lt s.active.scan.isLt)
  rw [power]
  exact Nat.pow_le_pow_right Nat.two_pos (Nat.le_of_lt_succ bound)

/-- `ROW` after n ticks (R166). -/
def rowAfterTicks (s : State) (n : Nat) : BitVec 7 := BitVec.ofNat 7 ((s.row.toNat + n) % s.active.scan.toNat)

theorem rowAfterTicks_toNat {s : State} (h : ScanReady s) (n : Nat) :
    (rowAfterTicks s n).toNat = (s.row.toNat + n) % s.active.scan.toNat :=
  Nat.mod_eq_of_lt ((Nat.mod_lt _ h.checked.scanPos).trans_le (scan_le_of_checked h.checked))

theorem rowAfterTicks_zero {s : State} (h : ScanReady s) : rowAfterTicks s 0 = s.row :=
  BitVec.eq_of_toNat_eq ((rowAfterTicks_toNat h 0).trans (Nat.mod_eq_of_lt h.row))

/-- After as many ticks as there are row groups, the first one is next again (R169). -/
theorem rowAfterTicks_scan {s : State} (h : ScanReady s) : rowAfterTicks s s.active.scan.toNat = s.row := by
  rw [← rowAfterTicks_zero h, rowAfterTicks, Nat.add_mod_right]
  rfl

theorem rowAfterTicks_succ {s : State} (h : ScanReady s) (n : Nat) :
    BitVec.ofNat 7 (((rowAfterTicks s n).toNat + 1) % s.active.scan.toNat) = rowAfterTicks s (n + 1) := by
  rw [rowAfterTicks_toNat h, Nat.mod_add_mod]
  rfl

/-- The address lines of the active geometry count every row group (R163). -/
theorem row_and_addressLines {s : State} (h : ScanReady s) : s.row &&& lowLines (addressBits (activeDims s.active)) = s.row := by
  have power : s.active.scan.toNat = 2 ^ addressBits (activeDims s.active) :=
    scan_eq_pow s.active.scan.isLt h.checked.scanPos h.checked.scanBits
  have depth := scan_le_of_checked h.checked
  have below := h.row
  rw [power] at depth below
  apply BitVec.eq_of_toNat_eq
  rw [BitVec.toNat_and, lowLines, BitVec.toNat_ofNat, Nat.mod_eq_of_lt (by omega)]
  exact Nat.and_two_pow_sub_one_of_lt_two_pow below

/-- Step 3 drives the row itself (R163). -/
theorem addressEvent_row {s : State} (h : ScanReady s) :
    addressEvent s.row s = .addr s.row (Nat.log2 s.active.scan.toNat) := by
  rw [addressEvent, row_and_addressLines h]
  rfl

/-- Step 4 pulses the latch once or twice (R164, R202). -/
theorem latchEvents_pulses {p : Params} (h : p.Valid) :
    latchEvents p = if p.variant.latchPulses = 2 then [.lat true, .lat false] ++ [.lat true, .lat false]
      else [.lat true, .lat false] := by
  obtain one | two := h.latchPulses
  · rw [latchEvents, one]; rfl
  · rw [latchEvents, two]; rfl

/-! ### The scan engine's turn -/

/-- What a tick of a configured block makes of the state, once `rest` is all that the agenda still holds (R160-R166). -/
def servedTick (s : State) (rest : List Input) : State :=
  { s with
    agenda := rest, pend := false, snap := s.duty, row := rowAfterTicks s 1,
    lines := linesAfter (rowEvents s s.row.toNat ++ addressAndLatch s.row s) s.lines,
    trace := s.trace ++ tickEvents s, dutyWrites := s.dutyWrites ++ [dutyOff, s.duty] }

/-- A tick is pending only while ticks are enabled (R44). -/
theorem State.RuleInv.tie_of_pend {s : State} (h : s.RuleInv) (pend : s.pend = true) : s.tie = true :=
  Bool.eq_true_of_not_eq_false (mt h.pend (ne_false_of_eq_true pend))

/-- The turn that the agenda offers, with a tick to serve on a configured block (R159, R160-R166). -/
theorem step_tick_configured {s : State} {rest : List Input} (h : ScanReady s) (pend : s.pend = true) (tie : s.tie = true)
    (offered : s.agenda = .tick :: rest) : step s = .next (servedTick s rest) := by
  rw [step_cons offered]
  exact (serveTick_pending (s := { s with agenda := rest }) pend tie).trans
    (runTick_configured (s := { s with agenda := rest }) h.init h.checked h.lanes h.row)

/-- Settles O46: the effect of `step_tick_configured`, with the address and latch events of the row group written out. -/
theorem tickShiftsAddressesLatches : Obligations.TickShiftsAddressesLatches := by
  unfold Obligations.TickShiftsAddressesLatches
  intro s rest inv init pend offered
  have ready := scanReady_of_inv inv init
  refine ⟨_, step_tick_configured ready pend (inv.rule.tie_of_pend pend) offered, rfl, rowAfterTicks_toNat ready 1, ?_⟩
  simp only [addressAndLatch, addressEvent_row ready, latchEvents_pulses inv.cfg]

/-! ### A frame -/

theorem tickEvents_congr {s t : State} (h : SameBanks s t) (row : t.row = s.row) (duty : t.duty = s.duty) :
    tickEvents t = tickEvents s := by
  rw [tickEvents, tickEvents, row, duty, rowEvents_congr h.mem h.epoch h.cfg h.active h.front,
    addressAndLatch_congr h.cfg h.active]

/-- What the next n ticks of a block show, if nothing else happens (R169). -/
def frameEvents (s : State) (n : Nat) : List LineEvent :=
  (List.range n).flatMap fun k => tickEvents { s with row := rowAfterTicks s k }

theorem frameEvents_succ (s : State) (n : Nat) :
    frameEvents s (n + 1) = frameEvents s n ++ tickEvents { s with row := rowAfterTicks s n } := by
  simp [frameEvents, List.range_succ]

theorem ticks_succ (n : Nat) : ticks (n + 1) = ticks n ++ [.expire, .tick] := by
  simp [ticks, List.replicate_succ']

/-- An expiry and the tick that it asks for (R157, R160-R166). -/
theorem runSteps_expireTick {s : State} {rest : List Input} (h : ScanReady s) (tie : s.tie = true)
    (offered : s.agenda = .expire :: .tick :: rest) : runSteps 2 s = .next (servedTick s rest) := by
  have expired : step s = .next { s with agenda := .tick :: rest, pend := true } := by
    rw [step_cons offered]
    exact congrArg Host.Outcome.next (if_pos tie)
  have served := step_tick_configured (s := { s with agenda := .tick :: rest, pend := true })
    (h.of_sameBanks ⟨rfl, rfl, rfl, rfl, rfl, rfl⟩ h.row) rfl tie rfl
  simp only [runSteps, expired, served]
  rfl

/-- A state that n ticks of a block lead to. -/
structure AfterTicks (s : State) (n : Nat) (t : State) : Prop where
  same : SameBanks s t
  tie : t.tie = s.tie
  row : t.row = rowAfterTicks s n
  duty : t.duty = s.duty
  err : t.err = s.err
  trace : t.trace = s.trace ++ frameEvents s n

/-- The n-th tick of a frame shows its row group and leaves the rest to the next one. -/
theorem afterTicks_succ {s t : State} {rest : List Input} {n : Nat} (h : ScanReady s) (tie : s.tie = true)
    (after : AfterTicks s n t) (offered : t.agenda = .expire :: .tick :: rest) :
    ∃ u, runSteps 2 t = .next u ∧ u.agenda = rest ∧ AfterTicks s (n + 1) u := by
  obtain ⟨init, front, active, mem, cfg, epoch⟩ := after.same
  have shown : tickEvents t = tickEvents { s with row := rowAfterTicks s n } :=
    tickEvents_congr ⟨init, front, active, mem, cfg, epoch⟩ after.row after.duty
  have ready : ScanReady t := h.of_sameBanks after.same
    (by rw [after.row, rowAfterTicks_toNat h]; exact Nat.mod_lt _ h.checked.scanPos)
  have ran := runSteps_expireTick ready (after.tie.trans tie) offered
  refine ⟨_, ran, rfl, ⟨after.same.trans ⟨rfl, rfl, rfl, rfl, rfl, rfl⟩, after.tie, ?_, after.duty, after.err, ?_⟩⟩
  · change rowAfterTicks t 1 = _
    rw [rowAfterTicks, after.row, active, rowAfterTicks_succ h]
  · change t.trace ++ tickEvents t = _
    rw [after.trace, shown, frameEvents_succ, List.append_assoc]

/-- Any number of ticks in a row, by induction on it (R169). -/
theorem runSteps_ticks {s : State} (h : ScanReady s) (tie : s.tie = true) (n : Nat) {rest : List Input}
    (offered : s.agenda = ticks n ++ rest) :
    ∃ t, runSteps (2 * n) s = .next t ∧ t.agenda = rest ∧ AfterTicks s n t := by
  induction n generalizing rest with
  | zero =>
    exact ⟨s, rfl, offered, sameBanks_agenda s s.agenda, rfl, (rowAfterTicks_zero h).symm, rfl, rfl, (List.append_nil _).symm⟩
  | succ n ih =>
    rw [ticks_succ, List.append_assoc] at offered
    obtain ⟨t, ran, left, after⟩ := ih offered
    obtain ⟨u, ranNext, leftNext, afterNext⟩ := afterTicks_succ h tie after left
    exact ⟨u, (runSteps_add (2 * n) 2 ran).trans ranNext, leftNext, afterNext⟩

/-- Settles O50: after S ticks (`runSteps_ticks`) `ROW` has gone once around. -/
theorem frameShowsEveryRowOnce : Obligations.FrameShowsEveryRowOnce := by
  unfold Obligations.FrameShowsEveryRowOnce
  intro s rest inv init tie offered
  have ready := scanReady_of_inv inv init
  obtain ⟨t, ran, left, after⟩ := runSteps_ticks ready tie s.active.scan.toNat offered
  exact ⟨t, ran, left, after.row.trans (rowAfterTicks_scan ready), after.same.mem, after.duty, after.err, after.trace⟩

/-! ### START and STOP -/

/-- The words of START and their operand (R82, R84). -/
theorem decode_start {w : Word} (h : w &&& 0xFFF00000#32 = 0x80000000#32) : decode w = .ok (.start (bits w 19 0)) := by
  have row : w.toNat / 2 ^ 20 = 2048 := (mask_iff (p := 0x80000000#32) 20 (by decide) (by decide)).1 h
  simp only [bits, pow_zero, Nat.div_one]
  exact decode_ok_iff.2 (.inr (.inr (.inr (.inr (.inr (.inr (.inr (.inr (.inl ⟨row, rfl⟩)))))))))

/-- The one word of STOP (R84, R153). -/
theorem decode_stop_iff {w : Word} : decode w = .ok .stop ↔ w = 0x90000000#32 := by
  rw [decode_ok_iff]
  simp only [reduceCtorEq, and_false, and_true, false_or, or_false]
  exact ⟨BitVec.eq_of_toNat_eq (y := 0x90000000#32), congrArg BitVec.toNat⟩

/-- Settles O38: the period of a valid frequency fits the 24 bits of `TICK_PERIOD`. -/
theorem startProgramsTimer : Obligations.StartProgramsTimer := by
  unfold Obligations.StartProgramsTimer
  refine ⟨fun s freq _ => ⟨fun valid => ?_, fun invalid => ?_⟩, fun w h => decode_start h⟩
  · have ⟨_, _, fits24⟩ := valid
    exact ⟨_, execStart_valid (decide_eq_true valid), rfl, Nat.mod_eq_of_lt (Nat.lt_succ_of_le fits24)⟩
  · exact execStart_invalid (mt of_decide_eq_true invalid)

/-- Settles O39: STOP is `execStop` in every state. -/
theorem stopDisablesTicks : Obligations.StopDisablesTicks := by
  unfold Obligations.StopDisablesTicks
  exact ⟨fun s => rfl, decode_stop_iff.2 rfl, fun w h => decode_stop_iff.1 h⟩

/-! ### The tick timer -/

/-- Settles O42: of a block clock's two counters, the timer's is `timerClock`. -/
theorem timerCountsWhileEnabled : Obligations.TimerCountsWhileEnabled := by
  unfold Obligations.TimerCountsWhileEnabled
  intro s rest offered
  refine ⟨_, (step_cons offered).trans (congrArg Host.Outcome.next (blockClock_frame _)), rfl,
    fun tie last => ?_, fun tie before => ?_, fun tie => ?_⟩
  · rw [timerClock_reload (s := { s with agenda := rest }) tie last]
    exact ⟨rfl, rfl⟩
  · rw [timerClock_count (s := { s with agenda := rest }) tie before]
    exact ⟨timerCnt_succ before, rfl⟩
  · rw [timerClock_disabled (s := { s with agenda := rest }) tie]
    exact ⟨rfl, rfl, fun inv => inv.rule.pend tie⟩

end Sys2Proof.Machine
end

/-! ## Proofs of the family 44_brightness.md

SETBRIGHT as one equation, the dark panel and the words of SETBRIGHT; then the statements. -/

section
namespace Sys2Proof.Machine

open Sys2Proof.Statements

/-- Settles O57: the parameters are kept by every case of `StepEffect`, which `step_cfg` goes through. -/
theorem parametersNeverChange : Obligations.ParametersNeverChange := by
  unfold Obligations.ParametersNeverChange
  exact fun s t h => step_cfg h

/-! ### SETBRIGHT -/

/-- SETBRIGHT of a value that its word can hold (R183). -/
theorem exec_setbright (s : State) (value : BitVec 8) :
    exec (.setbright value.toNat) s = .next { s with
      bright := value, duty := s.cfg.gamma value, err := 0#4, dutyWrites := s.dutyWrites ++ [s.cfg.gamma value] } := by
  change execSetbright value.toNat s = _
  simp only [execSetbright, BitVec.ofNat_toNat, BitVec.setWidth_eq]
  rfl

/-- With the maximum-off duty no step of a PWM period is lit, configured or not (R187). -/
theorem panelLit_dutyOff {s : State} (driven : s.lineEn = true) (off : s.duty = dutyOff) : panelLit s = some 0 := by
  rw [panelLit, if_pos driven, off]
  exact congrArg some (ite_self 0)

/-- The words of SETBRIGHT and their operand (R82, R84). -/
theorem decode_setbright {w : Word} (h : w &&& 0xFFFFFF00#32 = 0x60000000#32) :
    decode w = .ok (.setbright (bits w 7 0)) := by
  have row : w.toNat / 2 ^ 8 = 6291456 := (mask_iff (p := 0x60000000#32) 8 (by decide) (by decide)).1 h
  simp only [bits, pow_zero, Nat.div_one]
  exact decode_ok_iff.2 (.inr (.inr (.inr (.inr (.inr (.inr (.inl ⟨row, rfl⟩)))))))

/-- Settles O36: `exec_setbright` at the table's two ends (R181), and at the value held, whose lookup `DUTY` is (R44). -/
theorem setbrightProgramsDuty : Obligations.SetbrightProgramsDuty := by
  unfold Obligations.SetbrightProgramsDuty
  refine ⟨exec_setbright, fun s valid => ?ends, fun s inv => ?held, fun w h => decode_setbright h⟩
  case ends =>
    exact ⟨_, _, exec_setbright s 0#8, exec_setbright s 255#8, valid.gammaZero,
      fun driven => panelLit_dutyOff driven valid.gammaZero, gamma_last_min valid⟩
  case held => rw [exec_setbright, ← inv.rule.duty]

/-! ### The output enable -/

/-- Settles O53: undriven by `lineLevel_undriven`, driven by `oeN_driven`. -/
theorem outputEnableFunction : Obligations.OutputEnableFunction := by
  unfold Obligations.OutputEnableFunction
  refine fun s => ⟨fun undriven => lineLevel_undriven undriven _, fun driven unconfigured => ?_,
    fun driven _ dark => ?_, fun driven configured lit => ?_⟩ <;> rw [oeN_driven driven]
  · exact if_neg fun h => ne_true_of_eq_false unconfigured h.1
  · exact if_neg fun h => BitVec.not_lt.2 dark h.2
  · exact if_pos ⟨configured, lit⟩

end Sys2Proof.Machine
end

/-! ## Proofs of the family 60_exceptions.md

The four commands of R221, told apart by their mnemonics; then the statement. -/

section
namespace Sys2Proof.Machine

/-- The commands that R221 names: one constructor for each mnemonic. -/
theorem needsConfiguration_cases {i : Instr} (named : i.mnemonic ∈ ["SETPIXEL", "FILL", "GETPIXEL", "SWAP"]) :
    (∃ x y on, i = .setpixel x y on) ∨ (∃ on, i = .fill on) ∨ (∃ x y, i = .getpixel x y) ∨ ∃ copy, i = .swap copy := by
  cases i with
  | setpixel x y on => exact .inl ⟨x, y, on, rfl⟩
  | fill on => exact .inr (.inl ⟨on, rfl⟩)
  | getpixel x y => exact .inr (.inr (.inl ⟨x, y, rfl⟩))
  | swap copy => exact .inr (.inr (.inr ⟨copy, rfl⟩))
  | nop | setgeom0 | setgeom1 | configure | setbright | start | stop => simp [Instr.mnemonic] at named

/-- Settles O32: each of the four meanings answers `NOT_INIT`, whose number is 2 (R220). -/
theorem drawingBeforeConfigurationFails : Obligations.DrawingBeforeConfigurationFails := by
  unfold Obligations.DrawingBeforeConfigurationFails
  intro s i unconfigured named
  obtain ⟨x, y, on, rfl⟩ | ⟨on, rfl⟩ | ⟨x, y, rfl⟩ | ⟨copy, rfl⟩ := needsConfiguration_cases named
  · exact execSetpixel_unconfigured unconfigured x y on
  · exact execFill_unconfigured unconfigured on
  · exact execGetpixel_unconfigured unconfigured x y
  · exact execSwap_unconfigured unconfigured copy

end Sys2Proof.Machine
end

/-! ## Proofs of the family 'other': the decoder

The decoder on every word, the operands of each command, and the two round trips between commands and words. -/

section
namespace Sys2Proof.Machine

open Sys2Proof.Statements

/-! ### The decoder on every word -/

/-- Settles O3: a word fits a row and decodes to its command, or it fits none and is illegal; it never fits two. -/
theorem decoderTotalAndUnambiguous : Obligations.DecoderTotalAndUnambiguous := by
  unfold Obligations.DecoderTotalAndUnambiguous
  refine ⟨fun w => ?_, fun w r hr q hq hwr hwq => fits_unique hr hq hwr hwq⟩
  by_cases hfit : ∃ r ∈ specRows, fits w r
  · obtain ⟨r, hr, hw⟩ := hfit
    exact .inl ⟨r, hr, hw, (fits_iff_decode hr w).1 hw⟩
  · have unfit : ∀ r ∈ specRows, ¬ fits w r := fun r hr hw => hfit ⟨r, hr, hw⟩
    exact .inr ⟨unfit, decode_illegal unfit⟩

/-- The words of GETPIXEL and their operands (R82, R84). -/
theorem decode_getpixel {w : Word} (h : w &&& 0xF8000000#32 = 0xA0000000#32) :
    decode w = .ok (.getpixel (sextX w) (sextY w)) := by
  have row : w.toNat / 2 ^ 27 = 20 := (mask_iff (p := 0xA0000000#32) 27 (by decide) (by decide)).1 h
  have column : sextX w = fieldX w := BitVec.toInt_signExtend_of_le (by decide)
  have line : sextY w = fieldY w := BitVec.toInt_signExtend_of_le (by decide)
  rw [column, line]
  exact decode_ok_iff.2 (.inr (.inr (.inr (.inr (.inr (.inr (.inr (.inr (.inr (.inr ⟨row, rfl⟩))))))))))

/-- Settles O4: one lemma for the words of each command with operands. -/
theorem fieldsAtTheirBits : Obligations.FieldsAtTheirBits := by
  unfold Obligations.FieldsAtTheirBits
  exact fun w => ⟨decode_setgeom0, decode_setgeom1, decode_setpixel, decode_getpixel, decode_fill, decode_swap,
    decode_setbright, decode_start⟩

/-! ### The round trips -/

/-- Settles O5: `decode_encode`, and the four lanes of a word are the word. -/
theorem encodeThenDecode : Obligations.EncodeThenDecode := by
  unfold Obligations.EncodeThenDecode
  refine fun i wf => ⟨decode_encode wf, fun rest => ?_⟩
  simp only [encodeBytes, wordBytes, List.cons_append, List.nil_append, decodeBytes, wordOfLanes_lanes, decode_encode wf]

/-- The column field is a column that 14 bits hold, and it reads back as the field's number (R82, R88). -/
theorem fieldX_encodes (w : Word) :
    columnEncodable (fieldX w) = true ∧ (fieldX w % 2 ^ 14).toNat = w.toNat % 2 ^ 14 := by
  rw [columnEncodable, decide_eq_true_eq, fieldX_eq]
  split <;> omega

/-- The row field is a row that 13 bits hold, and it reads back as the field's number (R82, R88). -/
theorem fieldY_encodes (w : Word) :
    rowEncodable (fieldY w) = true ∧ (fieldY w % 2 ^ 13).toNat = w.toNat / 2 ^ 14 % 2 ^ 13 := by
  rw [rowEncodable, decide_eq_true_eq, fieldY_eq]
  split <;> omega

/-- A bit of a number, read as a flag and written as a number again. -/
theorem toNat_decide_bit (n : Nat) : (decide (n % 2 = 1)).toNat = n % 2 := by
  obtain h | h := Nat.mod_two_eq_zero_or_one n <;> simp [h]

/-- A decoded command has operands in their ranges (R88): each is a field of the word, as wide as its range. -/
theorem wellFormed_of_decode {w : Word} {i : Instr} (h : decode w = .ok i) : i.wellFormed = true := by
  have ⟨hx, _⟩ := fieldX_encodes w
  have ⟨hy, _⟩ := fieldY_encodes w
  rw [decode_ok_iff] at h
  cases i with
  | nop | configure | stop | fill _ | swap _ => rfl
  | setgeom0 _ _ | setgeom1 _ _ _ | setbright _ | start _ =>
    simp only [reduceCtorEq, and_false, false_or, or_false, Instr.setgeom0.injEq, Instr.setgeom1.injEq,
      Instr.setbright.injEq, Instr.start.injEq] at h
    simp only [Instr.wellFormed, Bool.and_eq_true, decide_eq_true_eq]
    omega
  | setpixel x y on =>
    simp only [reduceCtorEq, and_false, false_or, or_false, Instr.setpixel.injEq] at h
    obtain ⟨-, rfl, rfl, -⟩ := h
    exact (Bool.and_eq_true _ _).mpr ⟨hx, hy⟩
  | getpixel x y =>
    simp only [reduceCtorEq, and_false, false_or, Instr.getpixel.injEq] at h
    obtain ⟨-, rfl, rfl⟩ := h
    exact (Bool.and_eq_true _ _).mpr ⟨hx, hy⟩

/-- R88's number of a decoded command is the word's own: the row gives the opcode, and the fields are the other digits. -/
theorem assembledNumber_of_decode {w : Word} {i : Instr} (h : decode w = .ok i) : assembledNumber i = w.toNat := by
  have ⟨_, hx⟩ := fieldX_encodes w
  have ⟨_, hy⟩ := fieldY_encodes w
  rw [decode_ok_iff] at h
  cases i with
  | nop | configure | stop =>
    simp only [reduceCtorEq, and_false, and_true, false_or, or_false] at h
    exact h.symm
  | setgeom0 _ _ | setgeom1 _ _ _ | setbright _ | start _ =>
    simp only [reduceCtorEq, and_false, false_or, or_false, Instr.setgeom0.injEq, Instr.setgeom1.injEq,
      Instr.setbright.injEq, Instr.start.injEq] at h
    simp only [assembledNumber]
    omega
  | fill on | swap on =>
    simp only [reduceCtorEq, and_false, false_or, or_false, Instr.fill.injEq, Instr.swap.injEq] at h
    obtain ⟨row, rfl⟩ := h
    simp only [assembledNumber, toNat_decide_bit]
    omega
  | setpixel x y on =>
    simp only [reduceCtorEq, and_false, false_or, or_false, Instr.setpixel.injEq] at h
    obtain ⟨row, rfl, rfl, rfl⟩ := h
    simp only [assembledNumber, toNat_decide_bit, hx, hy]
    omega
  | getpixel x y =>
    simp only [reduceCtorEq, and_false, false_or, Instr.getpixel.injEq] at h
    obtain ⟨row, rfl, rfl⟩ := h
    simp only [assembledNumber, hx, hy]
    omega

/-- Settles O6: a command's word is given by R88's number, which for a decoded command is the word it came from. -/
theorem decodeThenEncode : Obligations.DecodeThenEncode := by
  unfold Obligations.DecodeThenEncode
  intro w i h
  have wf := wellFormed_of_decode h
  exact ⟨wf, BitVec.eq_of_toNat_eq ((encode_toNat wf).trans (assembledNumber_of_decode h))⟩

end Sys2Proof.Machine
end

/-! ## Proofs of the family 'other': what a step writes

Which registers a command and every other step leave; then single steps: a command write, the reset input, an expiry, a turn
of the scan engine and a block alone. -/

section
namespace Sys2Proof.Machine

open Sys2Proof.Statements
/-- Settles O55: for each command, the fields that its case of `Writes` does not name are as they were. -/
theorem commandsWriteOnlyTheirRegisters : Obligations.CommandsWriteOnlyTheirRegisters := by
  unfold Obligations.CommandsWriteOnlyTheirRegisters
  intro s t i ran
  have w := exec_writes ran
  cases i with
  | nop | setgeom0 _ _ | setgeom1 _ _ _ | setbright _ | stop =>
    rw [Writes] at w
    rw [w]
    simp [errNumber_le]
  | setpixel _ _ _ | fill _ | start _ | getpixel _ _ =>
    obtain e | e := w <;> rw [e] <;> simp [errNumber_le]
  | configure =>
    obtain e | ⟨code, e⟩ := w <;> rw [e] <;> simp [errNumber_le]
  | swap copy =>
    obtain ⟨e, kept⟩ | e := w <;> rw [e]
    · cases copy with
      | false => simp [kept rfl, errNumber_le]
      | true => simp [errNumber_le]
    · simp [errNumber_le]

/-- Settles O56: of the steps in question only a tick of a configured block moves `ROW`, and it gives `DUTY` back. -/
theorem otherStepsKeepCommandRegisters : Obligations.OtherStepsKeepCommandRegisters := by
  unfold Obligations.OtherStepsKeepCommandRegisters
  intro s t h notReset notWrite
  cases step_effect h with
  | command w i rest offered decoded ran => exact absurd offered (notWrite _ _ _ rest)
  | illegal w e rest offered rejected raised => exact absurd offered (notWrite _ _ _ rest)
  | wasReset rest offered cleared => exact absurd offered (notReset rest)
  | passed i rest reads offered recorded kept => simp [kept]
  | expired rest offered marked => simp [marked]
  | clocked rest turn counted => simp [counted]
  | ticked rest turn pending enabled ran =>
    obtain ⟨frame, duty, -⟩ := runTick_frame ran
    have moved : t.row ≠ s.row → s.init = true := fun row => by
      by_contra init
      rw [runTick_guard (s := { s with agenda := rest }) (Bool.eq_false_of_not_eq_true init)] at ran
      cases ran
      exact row rfl
    rw [frame] at moved ⊢
    exact ⟨rfl, rfl, rfl, rfl, rfl, rfl, rfl, rfl, rfl, rfl, duty, rfl, rfl, fun row => ⟨moved row, pending, rfl⟩⟩

/-- A command leaves what the bus masters still offer (R71). -/
theorem runCommand_agenda {w : Word} {s t : State} (h : runCommand w s = .next t) : t.agenda = s.agenda := by
  unfold runCommand at h
  split at h
  · obtain ⟨-, -, -, -, -, -, -, -, -, -, -, -, -, -, -, -, -, -, -, -, -, -, agenda, -⟩ :=
      commandsWriteOnlyTheirRegisters s t _ h
    exact agenda
  · cases h
    rfl

/-- Settles O58: a command leaves the offered read for the next step. -/
theorem statusReadSeesTheCommandBeforeIt : Obligations.StatusReadSeesTheCommandBeforeIt := by
  unfold Obligations.StatusReadSeesTheCommandBeforeIt
  intro s t w rest h
  rw [commandStep_eq] at h
  exact ⟨_, step_read (runCommand_agenda h), by rw [portRead_status]⟩

/-- Settles O8: the write is the port's command, and `commandStep` offers it. -/
theorem stepRunsDecodedCommand : Obligations.StepRunsDecodedCommand := by
  unfold Obligations.StepRunsDecodedCommand
  intro s w i decoded
  have runs (u : State) : runCommand w u = exec i u := by rw [runCommand, decoded]
  exact ⟨fun rest offered => (step_commandWrite offered).trans (runs _), (commandStep_eq w s).trans (runs s)⟩

/-- The eight bytes of the port (R66). -/
theorem portOffset_inside (p : Params) {k : Nat} (h : k < 8) : portOffset p (p.drsBase + k) = some (BitVec.ofNat 3 k) := by
  rw [portOffset, if_pos ⟨Nat.le_add_right _ k, Nat.add_lt_add_left h _⟩, Nat.add_sub_cancel_left]

/-- The rest of the platform's addresses (R65). -/
theorem portOffset_outside {p : Params} {addr : Nat} (h : addr < p.drsBase ∨ p.drsBase + 8 ≤ addr) :
    portOffset p addr = none := if_neg (by omega)

/-- Settles O12: an access reaches the port exactly when its address has an offset there. -/
theorem registerMapAtBase : Obligations.RegisterMapAtBase := by
  unfold Obligations.RegisterMapAtBase
  refine fun p data bytes addr => ⟨fun k hk => ⟨?_, ?_⟩, ?_, ?_, fun outside => ⟨?_, ?_⟩⟩
  · rw [platformWrite, portOffset_inside p hk]; rfl
  · rw [platformRead, portOffset_inside p hk]; rfl
  · exact congrArg (Option.map _) (portOffset_inside p (k := 0) (by decide))
  · rw [platformRead, portOffset_inside p (k := 4) (by decide)]; rfl
  · rw [platformWrite, portOffset_outside outside]; rfl
  · rw [platformRead, portOffset_outside outside]; rfl

/-- A byte that nothing has written since the reset (R39). -/
theorem memRead_resetBlock {s : State} {a : Nat} (h : a < 2 * s.cfg.fbCapacity) :
    memRead (resetBlock s) a = .ok (Config.powerOnByte (s.epoch + 1) a) := memRead_ok h

/-- Settles O14: the state is `resetBlock`'s, whose bytes are all unwritten. -/
theorem resetInputRestoresResetState : Obligations.ResetInputRestoresResetState := by
  unfold Obligations.ResetInputRestoresResetState
  refine fun s rest offered => ⟨_, step_reset offered, rfl, statusWord_resetWith s.cfg (s.epoch + 1), rfl, rfl, rfl, rfl,
    fun a ha => memRead_resetBlock (s := { s with agenda := rest }) ha⟩

/-- `Expire` as one write of `PEND` (R157). -/
theorem timerExpire_eq (s : State) : timerExpire s = { s with pend := s.pend || s.tie } := by
  unfold timerExpire
  split
  · rename_i tie
    rw [tie, Bool.or_true]
  · rename_i tie
    have kept : (s.pend || s.tie) = s.pend := by rw [Bool.eq_false_of_not_eq_true tie, Bool.or_false]
    rw [kept]

/-- Settles O43: `PEND` that is 1 stays 1. -/
theorem expiryWhilePendingIsLost : Obligations.ExpiryWhilePendingIsLost := by
  unfold Obligations.ExpiryWhilePendingIsLost
  intro s rest offered
  have expired := (step_cons offered).trans (congrArg Host.Outcome.next (timerExpire_eq { s with agenda := rest }))
  refine ⟨expired, fun pend => expired.trans ?_⟩
  simp only [pend, Bool.true_or]

/-- A turn of the scan engine with nothing to serve (R159). -/
theorem step_tick_idle {s : State} {rest : List Input} (offered : s.agenda = .tick :: rest)
    (idle : s.pend = false ∨ s.tie = false) : step s = .next { s with agenda := rest } :=
  (step_cons offered).trans (serveTick_idle (s := { s with agenda := rest }) idle)

/-- A tick of an unconfigured block (R160). -/
theorem step_tick_unconfigured {s : State} {rest : List Input} (offered : s.agenda = .tick :: rest) (init : s.init = false)
    (pend : s.pend = true) (tie : s.tie = true) : step s = .next { s with agenda := rest, pend := false } :=
  (step_cons offered).trans ((serveTick_pending (s := { s with agenda := rest }) pend tie).trans (runTick_guard init))

/-- Settles O47: the two turns of the scan engine that show nothing. -/
theorem tickWithoutConfigurationDoesNothing : Obligations.TickWithoutConfigurationDoesNothing := by
  unfold Obligations.TickWithoutConfigurationDoesNothing
  exact fun s rest offered => ⟨step_tick_unconfigured offered, step_tick_idle offered⟩

/-- Settles O52: a block alone does what the two inputs name (`runAlone`). -/
theorem blockAloneServesPendingTickFirst : Obligations.BlockAloneServesPendingTickFirst := by
  unfold Obligations.BlockAloneServesPendingTickFirst
  intro s alone
  have same : { s with agenda := [] } = s := by rw [← alone]
  refine ⟨fun pend tie => ?_, fun idle => ?_⟩
  · rw [step_nil alone, step_cons (s := { s with agenda := [.tick] }) rfl, same, runAlone, pend, tie, runInput,
      serveTick_pending pend tie]
    rfl
  · have hidle : (s.pend && s.tie) = false := Bool.and_eq_false_iff.2 idle
    rw [step_nil alone, step_cons (s := { s with agenda := [.clock] }) rfl, same, runAlone, hidle]
    rfl

end Sys2Proof.Machine
end

/-! ## Proofs of the family 'other': the panel lines and the clauses of the invariant

What the events of a tick leave on the lines (R207); then each clause of the invariant as a rule for states that agree in what
it names, and the invariant at reset. -/

section
namespace Sys2Proof.Machine

open Sys2Proof.Statements

/-! ### The line levels after a tick -/

/-- One column leaves its pixels on the data lines and the shift clock low (R162). -/
theorem linesAfter_columnEvents (s : State) (r x : Nat) (l : Lines) :
    linesAfter (columnEvents s r x) l = { l with
      data0 := pixelAt s s.front x r,
      data1 := if s.active.lanes = 2 then pixelAt s s.front x (r + s.active.scan.toNat) else l.data1, clk := false } := by
  unfold columnEvents
  split <;> rfl

/-- A run of columns leaves the pixels of the last one. -/
theorem linesAfter_columns (s : State) (r n : Nat) (l : Lines) :
    linesAfter ((List.range (n + 1)).flatMap (columnEvents s r)) l = { l with
      data0 := pixelAt s s.front n r,
      data1 := if s.active.lanes = 2 then pixelAt s s.front n (r + s.active.scan.toNat) else l.data1, clk := false } := by
  induction n with
  | zero => exact linesAfter_columnEvents s r 0 l
  | succ n ih =>
    rw [List.range_succ, List.flatMap_append, linesAfter_append, ih, List.flatMap_singleton, linesAfter_columnEvents]
    split <;> rfl

theorem linesAfter_latchEvents {p : Params} (h : p.Valid) (l : Lines) :
    linesAfter (latchEvents p) l = { l with lat := false } := by
  rw [latchEvents_pulses h]
  split <;> rfl

/-- The address and the latch pulses, in either order, leave the row on the address lines and the latch low (R163, R164). -/
theorem linesAfter_addressAndLatch {s : State} (valid : s.cfg.Valid) (ready : ScanReady s) {l : Lines}
    (high : l.addr.toNat < 2 ^ addressBits (activeDims s.active)) :
    linesAfter (addressAndLatch s.row s) l = { l with lat := false, addr := s.row } := by
  have power : s.active.scan.toNat = 2 ^ addressBits (activeDims s.active) :=
    scan_eq_pow s.active.scan.isLt ready.checked.scanPos ready.checked.scanBits
  have low : l.addr &&& lowLines (addressBits (activeDims s.active)) = l.addr :=
    row_and_addressLines (s := { s with row := l.addr })
      (ready.of_sameBanks ⟨rfl, rfl, rfl, rfl, rfl, rfl⟩ (power ▸ high))
  have clear : l.addr &&& ~~~ lowLines (addressBits (activeDims s.active)) = 0#7 := by
    rw [← low, BitVec.and_assoc]
    simp
  have address (l' : Lines) (same : l'.addr = l.addr) : lineLevels (addressEvent s.row s) l' = { l' with addr := s.row } := by
    simp only [addressEvent, lineLevels, same, row_and_addressLines ready, clear, BitVec.zero_or]
  unfold addressAndLatch
  split
  · rw [linesAfter_cons, address l rfl, linesAfter_latchEvents valid]
  · rw [linesAfter_append, linesAfter_latchEvents valid, linesAfter_cons, linesAfter_nil]
    exact address { l with lat := false } rfl

/-- The line levels that a tick leaves (R207): the last column of the row group on the data lines, `CLK` and `LAT` at 0, the
row on the address lines. -/
def linesAfterTick (s : State) : Lines where
  data0 := pixelAt s s.front (totalWidth (activeDims s.active) - 1) s.row.toNat
  data1 := if s.active.lanes = 2 then
      pixelAt s s.front (totalWidth (activeDims s.active) - 1) (s.row.toNat + s.active.scan.toNat)
    else s.lines.data1
  clk := false
  lat := false
  addr := s.row

theorem linesAfter_tick {s : State} (inv : s.Inv) (init : s.init = true) :
    linesAfter (rowEvents s s.row.toNat ++ addressAndLatch s.row s) s.lines = linesAfterTick s := by
  have ready := scanReady_of_inv inv init
  have columns : totalWidth (activeDims s.active) = totalWidth (activeDims s.active) - 1 + 1 :=
    (Nat.sub_add_cancel (Nat.mul_pos ready.checked.widthPos ready.checked.chainPos)).symm
  rw [linesAfter_append, rowEvents, columns, linesAfter_columns]
  exact linesAfter_addressAndLatch inv.cfg ready (inv.lines.addrHigh init)

/-- Settles O51: the lines of `linesAfter_tick`; the duty is the lookup's before and after (R44). -/
theorem linesBetweenTicks : Obligations.LinesBetweenTicks := by
  unfold Obligations.LinesBetweenTicks
  intro s rest inv init pend offered
  refine ⟨_, step_tick_configured (scanReady_of_inv inv init) pend (inv.rule.tie_of_pend pend) offered, ?_⟩
  simp only [servedTick, linesAfter_tick inv init]
  exact ⟨rfl, rfl, rfl, rfl, rfl, inv.rule.duty, inv.lines.driven init⟩

/-! ### The invariant, clause by clause -/

theorem lineInv_congr {s t : State} (h : s.LineInv) (cfg : t.cfg = s.cfg) (init : t.init = s.init)
    (active : t.active = s.active) (lineEn : t.lineEn = s.lineEn) (lines : t.lines = s.lines) : t.LineInv := by
  obtain ⟨driven, clkLow, latLow, data1Absent, addrAbsent, addrHigh⟩ := h
  constructor <;> simpa only [cfg, init, active, lineEn, lines]

/-- Two states have the same in every clause of the invariant but R44's five. -/
structure SameLimits (s t : State) : Prop where
  cfg : t.cfg = s.cfg
  init : t.init = s.init
  active : t.active = s.active
  mem : t.mem = s.mem
  lineEn : t.lineEn = s.lineEn
  lines : t.lines = s.lines
  tie : t.tie = s.tie
  timerCnt : t.timerCnt = s.timerCnt
  tickPeriod : t.tickPeriod = s.tickPeriod
  pwmPhase : t.pwmPhase = s.pwmPhase

theorem State.Inv.of_sameLimits {s t : State} (h : s.Inv) (same : SameLimits s t) (rule : t.RuleInv) : t.Inv where
  cfg := same.cfg ▸ h.cfg
  rule := rule
  lanes := by rw [same.init, same.active]; exact h.lanes
  mem := memInv_congr h.mem same.mem same.cfg
  lines := lineInv_congr h.lines same.cfg same.init same.active same.lineEn same.lines
  timer := by rw [same.tie, same.timerCnt, same.tickPeriod]; exact h.timer
  pwm := by rw [same.pwmPhase, same.cfg]; exact h.pwm

/-- What is outside the block is in no clause of the invariant. -/
theorem inv_outside {s : State} (h : s.Inv) (agenda : List Input) (reads : List Word) :
    State.Inv { s with agenda := agenda, busReads := reads } :=
  h.of_sameLimits ⟨rfl, rfl, rfl, rfl, rfl, rfl, rfl, rfl, rfl, rfl⟩ (ruleInv_frame h.rule ..)

/-- A block with accepted parameters meets the invariant at reset. -/
theorem inv_resetWith {p : Params} (valid : p.Valid) (epoch : Nat) : (State.resetWith p epoch).Inv where
  cfg := valid
  rule := ruleInv_resetWith valid epoch
  lanes := nofun
  mem := ⟨List.Pairwise.nil, nofun⟩
  lines := ⟨nofun, rfl, rfl, fun _ => rfl, Nat.two_pow_pos _, nofun⟩
  timer := nofun
  pwm := valid.pwmPrescale

/-- Settles O15: the block's own parameters are accepted ones. -/
theorem resetMeetsInvariant : Obligations.ResetMeetsInvariant := by
  unfold Obligations.ResetMeetsInvariant
  exact inv_resetWith Config.elaborated.valid 0

end Sys2Proof.Machine
end

/-! ## Proofs of the family 'other': the invariant at every step

Each operation from a state of the invariant completes and keeps it; the two statements are case splits over the step. -/

section
namespace Sys2Proof.Machine

open Sys2Proof.Statements

/-! ### Every step completes and keeps the invariant -/

/-- A command completes, with the memory canonical and inside the space: what it writes lies in the used bytes of a bank
(R60). -/
theorem exec_completes {s : State} (inv : s.Inv) (i : Instr) : ∃ t, exec i s = .next t ∧ t.MemInv := by
  have kept {t : State} (mem : t.mem = s.mem) (cfg : t.cfg = s.cfg) : t.MemInv := memInv_congr inv.mem mem cfg
  cases i with
  | nop | setgeom0 _ _ | setgeom1 _ _ _ | setbright _ | stop => exact ⟨_, rfl, kept rfl rfl⟩
  | start freq =>
    refine ⟨_, rfl, ?_⟩
    split <;> exact kept rfl rfl
  | configure =>
    by_cases passes : checkGeom s.cfg (stagedDims s.staged) = .ok
    · obtain ⟨m, applied, -, canonical⟩ := configApply_spec passes
      exact ⟨_, (execConfigure_passes passes).trans (congrArg answer applied), memInv_congr (canonical inv.mem) rfl rfl⟩
    · exact ⟨_, exec_configure_fails passes, kept rfl rfl⟩
  | setpixel x y on =>
    cases init : s.init with
    | false => exact ⟨_, execSetpixel_unconfigured init x y on, kept rfl rfl⟩
    | true =>
      have checked := checked_of_init inv init
      by_cases inside : inRange (activeDims s.active) x y = true
      · have used := checked.bank_fits (!s.front) (checked.pixOff_lt inside)
        exact ⟨_, execSetpixel_inside init checked inside on, memInv_congr (memInv_put inv.mem used _) rfl rfl⟩
      · exact ⟨_, execSetpixel_outside init inside on, kept rfl rfl⟩
  | fill on =>
    cases init : s.init with
    | false => exact ⟨_, execFill_unconfigured init on, kept rfl rfl⟩
    | true =>
      obtain ⟨m, ran, -, canonical⟩ := execFill_configured init (checked_of_init inv init) on
      exact ⟨_, ran, memInv_congr (canonical inv.mem) rfl rfl⟩
  | swap copy =>
    cases init : s.init with
    | false => exact ⟨_, execSwap_unconfigured init copy, kept rfl rfl⟩
    | true =>
      cases copy with
      | false => exact ⟨_, execSwap_exchange init, kept rfl rfl⟩
      | true =>
        obtain ⟨m, ran, -, canonical⟩ := execSwap_copy init (checked_of_init inv init)
        exact ⟨_, ran, memInv_congr (canonical inv.mem) rfl rfl⟩
  | getpixel x y =>
    cases init : s.init with
    | false => exact ⟨_, execGetpixel_unconfigured init x y, kept rfl rfl⟩
    | true =>
      by_cases inside : inRange (activeDims s.active) x y = true
      · exact ⟨_, execGetpixel_inside init (checked_of_init inv init) inside, kept rfl rfl⟩
      · exact ⟨_, execGetpixel_outside init inside, kept rfl rfl⟩

theorem exec_keeps_memInv {s t : State} {i : Instr} (inv : s.Inv) (ran : exec i s = .next t) : t.MemInv := by
  obtain ⟨u, completed, mem⟩ := exec_completes inv i
  obtain rfl : u = t := Host.Outcome.next.inj (completed.symm.trans ran)
  exact mem

/-- A successful CONFIGURE leaves the resting lines, a lane count of R34 and a count below its period (R9, R106). -/
theorem configure_keeps_inv {s t : State} (inv : s.Inv) (ran : exec .configure s = .next t) : t.Inv := by
  have rule := configure_keeps_ruleInv inv.rule ran
  have mem := exec_keeps_memInv inv ran
  by_cases passes : checkGeom s.cfg (stagedDims s.staged) = .ok
  · obtain ⟨m, e⟩ := exec_configure_passes passes
    rw [e] at ran
    cases ran
    have hperiod : 0 < (defaultPeriod s.cfg).toNat := by
      obtain ⟨least, most⟩ := inv.cfg.defaultPeriod
      rw [defaultPeriod, period, BitVec.toNat_ofNat, Nat.mod_eq_of_lt (by omega)]
      exact least
    exact {
      cfg := inv.cfg, rule := rule, mem := mem, pwm := inv.pwm
      lanes := fun _ => activate_lanes s.staged
      lines := ⟨fun _ => rfl, rfl, rfl, fun _ => rfl, Nat.two_pow_pos _, fun _ => Nat.two_pow_pos _⟩
      timer := fun _ => hperiod }
  · rw [exec_configure_fails passes] at ran
    cases ran
    have ⟨_, clkLow, latLow, data1Absent, addrAbsent, _⟩ := inv.lines
    exact ⟨inv.cfg, rule, nofun, mem, ⟨nofun, clkLow, latLow, data1Absent, addrAbsent, nofun⟩, nofun, inv.pwm⟩

/-- START restarts the count below its period, or leaves the timer (R151, R152). -/
theorem start_keeps_timer {s t : State} {freq : Nat} (timer : s.tie = true → s.timerCnt.toNat < s.tickPeriod.toNat)
    (ran : exec (.start freq) s = .next t) : t.tie = true → t.timerCnt.toNat < t.tickPeriod.toNat := by
  change execStart freq s = .next t at ran
  by_cases valid : freqValid s.cfg freq = true
  · rw [execStart_valid valid] at ran
    cases ran
    have ⟨_, least, most⟩ := of_decide_eq_true valid
    intro _
    change 0 < (BitVec.ofNat 24 (period s.cfg freq)).toNat
    rw [BitVec.toNat_ofNat, Nat.mod_eq_of_lt (by omega)]
    exact least
  · rw [execStart_invalid valid] at ran
    cases ran
    exact timer

/-- Only CONFIGURE and START write the count or the period, and STOP only clears `TIE` (R35). -/
theorem exec_keeps_timer {s t : State} {i : Instr} (other : i ≠ .configure)
    (timer : s.tie = true → s.timerCnt.toNat < s.tickPeriod.toNat) (ran : exec i s = .next t) :
    t.tie = true → t.timerCnt.toNat < t.tickPeriod.toNat := by
  obtain ⟨-, tie, -, -, -, -, -, -, -, -, -, -, -, tickPeriod, timerCnt, -⟩ := commandsWriteOnlyTheirRegisters s t i ran
  cases i with
  | configure => exact absurd rfl other
  | start freq => exact start_keeps_timer timer ran
  | stop =>
    cases ran
    exact nofun
  | nop | setgeom0 _ _ | setgeom1 _ _ _ | setpixel _ _ _ | fill _ | setbright _ | swap _ | getpixel _ _ =>
    simp only [reduceCtorEq, false_and, exists_false, or_self, imp_false, ne_eq, not_not] at tie tickPeriod timerCnt
    rwa [tie, tickPeriod, timerCnt]

/-- The invariant across commands: every command but CONFIGURE leaves the configuration and the lines. -/
theorem exec_keeps_inv {s t : State} {i : Instr} (inv : s.Inv) (ran : exec i s = .next t) : t.Inv := by
  by_cases configures : i = .configure
  · subst configures
    exact configure_keeps_inv inv ran
  have cfg := exec_cfg ran
  obtain ⟨init, -, -, -, -, -, -, -, active, lineEn, lines, -, -, -, -, -, -, -, -, pwmPhase, -⟩ :=
    commandsWriteOnlyTheirRegisters s t i ran
  simp only [configures, false_and, imp_false, ne_eq, not_not] at init active lineEn lines
  exact {
    cfg := cfg ▸ inv.cfg
    rule := exec_keeps_ruleInv inv.rule ran
    lanes := by rw [init, active]; exact inv.lanes
    mem := exec_keeps_memInv inv ran
    lines := lineInv_congr inv.lines cfg init active lineEn lines
    timer := exec_keeps_timer configures inv.timer ran
    pwm := by rw [pwmPhase, cfg]; exact inv.pwm }

/-- The resting levels of R207 meet the invariant: the row is below the scan depth, which the address lines count, and a
block with one data line shifts one lane (R105). -/
theorem lineInv_linesAfterTick {s t : State} (inv : s.Inv) (init : s.init = true) (cfg : t.cfg = s.cfg)
    (active : t.active = s.active) (lineEn : t.lineEn = s.lineEn) (lines : t.lines = linesAfterTick s) : t.LineInv := by
  have checked := checked_of_init inv init
  have power : s.active.scan.toNat = 2 ^ addressBits (activeDims s.active) :=
    scan_eq_pow s.active.scan.isLt checked.scanPos checked.scanBits
  have below : s.row.toNat < 2 ^ addressBits (activeDims s.active) := power ▸ inv.rule.row init
  constructor <;> simp only [cfg, active, lineEn, lines, linesAfterTick]
  case driven => exact fun _ => inv.lines.driven init
  case data1Absent =>
    intro oneLine
    have oneLane : s.active.lanes ≠ 2 := fun two => by
      have wired : s.active.lanes.toNat ≤ s.cfg.variant.numDataLines := checked.lanes
      rw [two, oneLine] at wired
      exact absurd wired (by decide)
    rw [if_neg oneLane]
    exact inv.lines.data1Absent oneLine
  case addrAbsent => exact below.trans_le (Nat.pow_le_pow_right Nat.two_pos checked.address)
  case addrHigh => exact fun _ => below

/-- A tick completes and keeps the invariant (R44, R160-R166). -/
theorem runTick_keeps_inv {s : State} (inv : s.Inv) : ∃ t, runTick s = .next t ∧ t.Inv := by
  cases init : s.init with
  | false =>
    have ran := runTick_guard init
    exact ⟨_, ran,
      inv.of_sameLimits ⟨rfl, rfl, rfl, rfl, rfl, rfl, rfl, rfl, rfl, rfl⟩ (runTick_keeps_ruleInv inv.rule ran)⟩
  | true =>
    have ⟨_, checked, lanes, row⟩ := scanReady_of_inv inv init
    have ran := runTick_configured init checked lanes row
    rw [linesAfter_tick inv init] at ran
    exact ⟨_, ran, {
      cfg := inv.cfg
      rule := runTick_keeps_ruleInv inv.rule ran
      lanes := inv.lanes
      mem := memInv_congr inv.mem rfl rfl
      lines := lineInv_linesAfterTick inv init rfl rfl rfl rfl
      timer := inv.timer
      pwm := inv.pwm }⟩

theorem timerExpire_keeps_inv {s : State} (inv : s.Inv) : (timerExpire s).Inv :=
  inv.of_sameLimits (by constructor <;> simp) (timerExpire_keeps_ruleInv inv.rule)

/-- The timer's count stays below the period: it is reset when it gets there (R157). -/
theorem timerClock_below {s : State} (tie : s.tie = true) (below : s.timerCnt.toNat < s.tickPeriod.toNat) :
    (timerClock s).timerCnt.toNat < s.tickPeriod.toNat := by
  obtain last | before := Nat.lt_or_ge s.tickPeriod.toNat (s.timerCnt.toNat + 2)
  · rw [timerClock_reload tie (by omega)]
    exact Nat.zero_lt_of_lt below
  · rw [timerClock_count tie before]
    exact (timerCnt_succ before).trans_lt before

/-- The prescaler's phase stays below `PWM_PRESCALE` (R36). -/
theorem pwmClock_below {s : State} (positive : 1 ≤ s.cfg.pwmPrescale) :
    (pwmClock s).pwmPhase < s.cfg.pwmPrescale := by
  obtain last | before := Nat.lt_or_ge (s.pwmPhase + 1) s.cfg.pwmPrescale
  · rwa [pwmClock_wait last]
  · rwa [pwmClock_advance before]

theorem blockClock_keeps_inv {s : State} (inv : s.Inv) : (blockClock s).Inv where
  cfg := by rw [blockClock_cfg]; exact inv.cfg
  rule := blockClock_keeps_ruleInv inv.rule
  lanes := by rw [blockClock_init, blockClock_active]; exact inv.lanes
  mem := memInv_congr inv.mem (blockClock_mem s) (blockClock_cfg s)
  lines := lineInv_congr inv.lines (blockClock_cfg s) (blockClock_init s) (blockClock_active s) (blockClock_lineEn s)
    (blockClock_lines s)
  timer tie := by
    rw [blockClock_tie] at tie
    rw [blockClock_tickPeriod, blockClock, pwmClock_timerCnt]
    exact timerClock_below tie (inv.timer tie)
  pwm := by
    have prescale : (timerClock s).cfg = s.cfg := timerClock_cfg s
    rw [blockClock_cfg, blockClock, ← prescale]
    exact pwmClock_below (prescale ▸ inv.cfg.pwmPrescale)

theorem resetBlock_keeps_inv {s : State} (inv : s.Inv) : (resetBlock s).Inv :=
  inv_outside (inv_resetWith inv.cfg (s.epoch + 1)) s.agenda s.busReads

/-- Settles O16: by what the step is; each of its operations keeps the invariant. -/
theorem stepKeepsInvariant : Obligations.StepKeepsInvariant := by
  unfold Obligations.StepKeepsInvariant
  intro s t inv h
  have taken (rest : List Input) : State.Inv { s with agenda := rest } := inv_outside inv rest s.busReads
  cases step_effect h with
  | command w i rest offered decoded ran => exact exec_keeps_inv (taken rest) ran
  | illegal w e rest offered rejected raised =>
    rw [raised]
    exact (taken rest).of_sameLimits ⟨rfl, rfl, rfl, rfl, rfl, rfl, rfl, rfl, rfl, rfl⟩
      (raiseCmdError_keeps_ruleInv (taken rest).rule _)
  | passed i rest reads offered recorded kept =>
    rw [kept]
    exact inv_outside inv rest reads
  | expired rest offered marked =>
    rw [marked]
    exact timerExpire_keeps_inv (taken rest)
  | ticked rest turn pending enabled ran =>
    obtain ⟨u, completed, kept⟩ := runTick_keeps_inv (taken rest)
    rw [ran] at completed
    cases completed
    exact kept
  | clocked rest turn counted =>
    rw [counted]
    exact blockClock_keeps_inv (taken rest)
  | wasReset rest offered cleared =>
    rw [cleared]
    exact resetBlock_keeps_inv (taken rest)

/-- A turn of the scan engine completes, with or without a tick to serve (R159). -/
theorem serveTick_completes {s : State} (inv : s.Inv) : ∃ t, serveTick s = .next t := by
  unfold serveTick
  split
  · obtain ⟨t, ran, -⟩ := runTick_keeps_inv inv
    exact ⟨t, ran⟩
  · exact ⟨s, rfl⟩

theorem runCommand_completes {s : State} (inv : s.Inv) (w : Word) : ∃ t, runCommand w s = .next t := by
  unfold runCommand
  split
  · obtain ⟨t, ran, -⟩ := exec_completes inv _
    exact ⟨t, ran⟩
  · exact ⟨_, rfl⟩

/-- Whatever the outside offers, the block answers a state (R223, R229). -/
theorem runInput_completes {s : State} (inv : s.Inv) (i : Input) : ∃ t, runInput i s = .next t := by
  cases i with
  | bus a =>
    cases a with
    | write offset bytes data =>
      simp only [runInput, runAccess]
      split
      · exact runCommand_completes inv data
      · exact ⟨s, rfl⟩
    | read offset bytes => exact ⟨_, rfl⟩
  | tick => exact serveTick_completes inv
  | expire | clock | reset => exact ⟨_, rfl⟩

/-- Settles O18: a block alone makes the scan engine's turn or lets a clock pass; else it takes the agenda's first input. -/
theorem invariantStatesNeverStop : Obligations.InvariantStatesNeverStop := by
  unfold Obligations.InvariantStatesNeverStop
  intro s inv
  cases offered : s.agenda with
  | nil =>
    rw [step_nil offered, runAlone]
    split
    · obtain ⟨t, ran, -⟩ := runTick_keeps_inv inv
      exact ⟨t, ran⟩
    · exact ⟨_, rfl⟩
  | cons i rest =>
    rw [step_cons offered]
    exact runInput_completes (inv_outside inv rest s.busReads) i

end Sys2Proof.Machine
end

/-! ## Proofs of the family 'other': what the banks show

A tick as a function of the front bank's used bytes, on which the statements about drawing, SWAP and ticks rest. -/

section
namespace Sys2Proof.Machine

open Sys2Proof.Statements

/-! ### The front bank and the tick -/

/-- A row group of a configured block, and in dual-lane mode the one `S` rows below, are inside the panel (R105, R162). -/
theorem insidePanel_of_rowGroup {s : State} (h : ScanReady s) {x r : Nat} (hx : x < totalWidth (activeDims s.active))
    (hr : r < s.active.scan.toNat) :
    insidePanel s x r ∧ (s.active.lanes = 2 → insidePanel s x (r + s.active.scan.toNat : Nat)) := by
  have height : s.active.height.toNat = s.active.lanes.toNat * s.active.scan.toNat := h.checked.height
  have hx' : x < s.active.width.toNat * s.active.chain.toNat := hx
  have lanes : 1 ≤ s.active.lanes.toNat := by
    obtain one | two := h.lanes <;> simp [*]
  have least := Nat.mul_le_mul_right s.active.scan.toNat lanes
  simp only [insidePanel]
  refine ⟨by omega, fun two => ?_⟩
  have twice : s.active.height.toNat = 2 * s.active.scan.toNat := by rw [height, two]; rfl
  omega

/-- Two states show the same image: they agree in the geometry, and in the used bytes of their front banks, byte by byte. -/
structure SameFront (s t : State) : Prop where
  cfg : t.cfg = s.cfg
  active : t.active = s.active
  bytes : ∀ o < bufferSize (activeDims s.active),
    byteAt t (bankBase s.cfg t.front + o) = byteAt s (bankBase s.cfg s.front + o)

theorem SameFront.pixelAt_eq {s t : State} (h : SameFront s t) (ready : ScanReady s) {x y : Nat}
    (inside : insidePanel s x y) : pixelAt t t.front x y = pixelAt s s.front x y := by
  have used := ready.checked.pixOff_lt ((inRange_iff_insidePanel s x y).2 inside)
  rw [pixelAt, h.cfg, h.active]
  exact congrArg (· &&& pixMask x != 0#8) (h.bytes _ used)

/-- The columns of a row group read the front bank's used bytes only (R162). -/
theorem SameFront.rowEvents_eq {s t : State} (h : SameFront s t) (ready : ScanReady s) {r : Nat}
    (hr : r < s.active.scan.toNat) : rowEvents t r = rowEvents s r := by
  unfold rowEvents
  rw [h.active]
  refine List.flatMap_congr fun x hx => ?_
  obtain ⟨lane0, lane1⟩ := insidePanel_of_rowGroup ready (List.mem_range.1 hx) hr
  unfold columnEvents
  rw [h.active, h.pixelAt_eq ready lane0]
  split
  · rename_i two
    rw [h.pixelAt_eq ready (lane1 two)]
  · rfl

/-- The next tick shows the front bank's used bytes, at the row and the duty of the state (R167). -/
theorem SameFront.tickEvents_eq {s t : State} (h : SameFront s t) (ready : ScanReady s) (row : t.row = s.row)
    (duty : t.duty = s.duty) : tickEvents t = tickEvents s := by
  rw [tickEvents, tickEvents, row, duty, h.rowEvents_eq ready ready.row, addressAndLatch_congr h.cfg h.active]

/-- Settles O49: a tick that shifts reads the front bank only (`SameFront.rowEvents_eq`), and the other turns read no byte. -/
theorem tickDependsOnlyOnFrontBank : Obligations.TickDependsOnlyOnFrontBank := by
  unfold Obligations.TickDependsOnlyOnFrontBank
  intro s other rest inv inv' agree offered
  have offered' : State.agenda { s with mem := other } = .tick :: rest := offered
  by_cases idle : s.pend = false ∨ s.tie = false
  · exact ⟨_, step_tick_idle offered idle, rfl, step_tick_idle offered' idle⟩
  obtain ⟨pend, tie⟩ : s.pend = true ∧ s.tie = true := by simpa using idle
  obtain init | init := Bool.eq_false_or_eq_true s.init
  · have ready := scanReady_of_inv inv init
    have front : SameFront s { s with mem := other } :=
      ⟨rfl, rfl, fun o used => agree init _ ⟨Nat.le_add_right _ o, Nat.add_lt_add_left used _⟩⟩
    refine ⟨_, step_tick_configured ready pend tie offered, rfl, ?_⟩
    rw [step_tick_configured (scanReady_of_inv inv' init) pend tie offered', servedTick,
      front.tickEvents_eq ready rfl rfl, front.rowEvents_eq ready ready.row,
      addressAndLatch_congr (s := s) (t := { s with mem := other }) rfl rfl]
    rfl
  · exact ⟨_, step_tick_unconfigured offered init pend tie, rfl, step_tick_unconfigured offered' init pend tie⟩

/-! ### Drawing and the front bank -/

/-- The back bank's addresses are not the front bank's (R61). -/
theorem not_inBank_other {p : Params} {d : Dims} (h : Checked p d) {bank : Bool} {a : Nat} (ha : InBank p d bank a) :
    ¬ InBank p d (!bank) a := by
  have apart := h.banks_apart bank
  obtain ⟨low, high⟩ := ha
  rintro ⟨low', high'⟩
  omega

/-- A byte of a bank is in no other bank, and at one offset only (R60). -/
theorem bankBase_add_inj {p : Params} {d : Dims} (h : Checked p d) {bank bank' : Bool} {o o' : Nat} (ho : o < bufferSize d)
    (ho' : o' < bufferSize d) (same : bankBase p bank + o = bankBase p bank' + o') : bank = bank' ∧ o = o' := by
  have hbank : bank = bank' := by
    by_contra differ
    obtain rfl : bank' = !bank := Bool.eq_not.2 (Ne.symm differ)
    have inBank : InBank p d bank (bankBase p bank + o) := ⟨Nat.le_add_right _ o, Nat.add_lt_add_left ho _⟩
    rw [same] at inBank
    exact not_inBank_other h inBank ⟨Nat.le_add_right _ o', Nat.add_lt_add_left ho' _⟩
  subst hbank
  exact ⟨rfl, Nat.add_left_cancel same⟩

/-- A pixel in range of either bank has its own bit of its own byte (R62). -/
theorem pixelAddress_inj {s : State} (h : Checked s.cfg (activeDims s.active)) {bank bank' : Bool} {x y x' y' : Nat}
    (inside : insidePanel s x y) (inside' : insidePanel s x' y')
    (address : bankBase s.cfg bank + pixOff (activeDims s.active) x y =
      bankBase s.cfg bank' + pixOff (activeDims s.active) x' y')
    (column : x % 8 = x' % 8) : bank = bank' ∧ x = x' ∧ y = y' := by
  have used := h.pixOff_lt ((inRange_iff_insidePanel s x y).2 inside)
  have used' := h.pixOff_lt ((inRange_iff_insidePanel s x' y').2 inside')
  obtain ⟨hbank, hoff⟩ := bankBase_add_inj h used used' address
  obtain ⟨-, hx, -, -⟩ := inside
  obtain ⟨-, hx', -, -⟩ := inside'
  exact ⟨hbank, pixel_inj h (Int.ofNat_lt.1 hx) (Int.ofNat_lt.1 hx') hoff column⟩

/-- Settles O26: SETPIXEL changes one bit of one byte, and no other pixel in range is that bit (`pixelAddress_inj`). -/
theorem setpixelChangesExactlyOnePixel : Obligations.SetpixelChangesExactlyOnePixel := by
  unfold Obligations.SetpixelChangesExactlyOnePixel
  intro s x y on inv init inside
  obtain ⟨m, ran, bytes⟩ := exec_setpixel_inside inv init inside on
  refine ⟨_, ran, fun bank x' y' inside' => ?_⟩
  have inj := pixelAddress_inj (checked_of_init inv init) inside' inside (bank := bank) (bank' := !s.front)
  have read := bytes (bankBase s.cfg bank + pixOff (activeDims s.active) x' y')
  have pixel : pixelAt (succeed { s with mem := m }) bank x' y' = (byteAt { s with mem := m }
    (bankBase s.cfg bank + pixOff (activeDims s.active) x' y')).getLsbD (7 - x' % 8) := byte_column ..
  rw [pixel, read, pixelAt, byte_column]
  by_cases address : bankBase s.cfg bank + pixOff (activeDims s.active) x' y' =
      pixAddr s.cfg (activeDims s.active) (!s.front) x y
  · rw [if_pos address, Int.toNat_natCast, drawBit_bit _ _ _ _ (by omega), ← address]
    refine if_congr ⟨fun bit => inj address (by omega), ?_⟩ rfl rfl
    rintro ⟨-, rfl, -⟩
    rfl
  · rw [if_neg address, if_neg]
    rintro ⟨rfl, rfl, rfl⟩
    exact address rfl

/-- Settles O28: the pixel is the masked bit of the byte at `PixAddr`. -/
theorem getpixelReadsBackPixel : Obligations.GetpixelReadsBackPixel := by
  unfold Obligations.GetpixelReadsBackPixel
  refine ⟨fun s x y inv init => ?_, fun s x y h => execGetpixel_unconfigured h x y, fun w h => decode_getpixel h⟩
  by_cases inside : insidePanel s x y
  · refine ⟨_, exec_getpixel_inside (scanReady_of_inv inv init) inside, rfl, fun _ => ?_, absurd inside⟩
    rw [← pixMask_eq_mod]
    exact bne_iff_ne
  · exact ⟨_, execGetpixel_outside init (mt (inRange_iff_insidePanel s x y).1 inside), rfl, fun h => absurd h inside,
      fun _ => rfl⟩

/-- The three drawing commands on a configured block complete, and write no byte but of the back bank (R120). -/
theorem exec_drawing {s : State} (inv : s.Inv) (init : s.init = true) {i : Instr}
    (drawing : i.mnemonic ∈ ["SETPIXEL", "FILL", "GETPIXEL"]) :
    ∃ m pix, exec i s = .next (succeed { s with mem := m, pix := pix }) ∧
      ∀ a, ¬ InBank s.cfg (activeDims s.active) (!s.front) a → byteAt { s with mem := m } a = byteAt s a := by
  have checked := checked_of_init inv init
  cases i with
  | setpixel x y on =>
    by_cases inside : insidePanel s x y
    · obtain ⟨m, ran, bytes⟩ := exec_setpixel_inside inv init inside on
      refine ⟨m, s.pix, ran, fun a other => (bytes a).trans (if_neg ?_)⟩
      rintro rfl
      exact other ⟨Nat.le_add_right _ _,
        Nat.add_lt_add_left (checked.pixOff_lt ((inRange_iff_insidePanel s x y).2 inside)) _⟩
    · exact ⟨s.mem, s.pix, exec_setpixel_outside init inside on, fun _ _ => rfl⟩
  | fill on =>
    obtain ⟨m, ran, bytes⟩ := exec_fill_configured inv init on
    exact ⟨m, s.pix, ran, fun a other => (bytes a).trans (if_neg other)⟩
  | getpixel x y =>
    by_cases inside : insidePanel s x y
    · exact ⟨s.mem, _, exec_getpixel_inside (scanReady_of_inv inv init) inside, fun _ _ => rfl⟩
    · exact ⟨s.mem, _, execGetpixel_outside init (mt (inRange_iff_insidePanel s x y).1 inside), fun _ _ => rfl⟩
  | nop | setgeom0 | setgeom1 | configure | setbright | swap | start | stop => simp [Instr.mnemonic] at drawing

/-- Settles O33: a byte of the front bank is none of the back bank (`exec_drawing`), and a tick reads no other. -/
theorem drawingNeverReachesFrontBank : Obligations.DrawingNeverReachesFrontBank := by
  unfold Obligations.DrawingNeverReachesFrontBank
  intro s i inv drawing
  obtain init | init := Bool.eq_false_or_eq_true s.init
  · have ready := scanReady_of_inv inv init
    obtain ⟨m, pix, ran, kept⟩ := exec_drawing inv init drawing
    have front (a : Nat) (ha : InBank s.cfg (activeDims s.active) s.front a) :
        byteAt (succeed { s with mem := m, pix := pix }) a = byteAt s a := kept a (not_inBank_other ready.checked ha)
    have same : SameFront s (succeed { s with mem := m, pix := pix }) :=
      ⟨rfl, rfl, fun o used => front _ ⟨Nat.le_add_right _ o, Nat.add_lt_add_left used _⟩⟩
    exact ⟨_, ran, fun _ => front, fun _ => same.tickEvents_eq ready rfl rfl⟩
  · obtain ⟨t, ran, -⟩ := exec_completes inv i
    have unconfigured : ¬ s.init = true := by rw [init]; decide
    exact ⟨t, ran, fun h => absurd h unconfigured, fun h => absurd h unconfigured⟩

/-! ### SWAP and the image -/

/-- SWAP on a configured block (R141-R143): the new front bank keeps its bytes, and the new back bank gets them or keeps its
own. -/
theorem exec_swap_configured {s : State} (inv : s.Inv) (init : s.init = true) (copy : Bool) :
    ∃ m, exec (.swap copy) s = .next (succeed { exchangeRoles s with mem := m }) ∧
      ∀ o < bufferSize (activeDims s.active),
        byteAt { s with mem := m } (bankBase s.cfg (!s.front) + o) = byteAt s (bankBase s.cfg (!s.front) + o) ∧
        byteAt { s with mem := m } (bankBase s.cfg s.front + o) =
          byteAt s (bankBase s.cfg (if copy then !s.front else s.front) + o) := by
  cases copy with
  | false => exact ⟨s.mem, execSwap_exchange init, fun o _ => ⟨rfl, rfl⟩⟩
  | true =>
    obtain ⟨m, ran, copied, kept⟩ := exec_swap_copy inv init
    refine ⟨m, ran, fun o used => ⟨kept _ fun inFront => ?_, copied o used⟩⟩
    exact not_inBank_other (checked_of_init inv init) inFront ⟨Nat.le_add_right _ o, Nat.add_lt_add_left used _⟩

/-- Settles O35: byte by byte at the pixels' offsets, by `exec_swap_configured`. -/
theorem swapShowsTheDrawnImage : Obligations.SwapShowsTheDrawnImage := by
  unfold Obligations.SwapShowsTheDrawnImage
  intro s inv init
  refine ⟨fun copy => ?image, ?twice, ?restores⟩
  case image =>
    obtain ⟨m, ran, bytes⟩ := exec_swap_configured inv init copy
    have front : SameFront { s with front := !s.front } (succeed { exchangeRoles s with mem := m }) :=
      ⟨rfl, rfl, fun o used => (bytes o used).1⟩
    have ⟨_, checked, lanes, row⟩ := scanReady_of_inv inv init
    have ready : ScanReady { s with front := !s.front } := ⟨init, checked, lanes, row⟩
    refine ⟨_, ran, front.tickEvents_eq ready rfl rfl, fun x y inside => ⟨front.pixelAt_eq ready inside, ?_⟩⟩
    have used := checked.pixOff_lt ((inRange_iff_insidePanel s x y).2 inside)
    have back : pixelAt (succeed { exchangeRoles s with mem := m }) s.front x y =
        pixelAt s (if copy then !s.front else s.front) x y := congrArg (· &&& pixMask x != 0#8) (bytes _ used).2
    rw [apply_ite (pixelAt s · x y)] at back
    simpa using back
  case twice =>
    obtain ⟨m, ran, bytes⟩ := exec_swap_configured inv init true
    have inv' := exec_keeps_inv inv ran
    obtain ⟨m', ran', bytes'⟩ := exec_swap_configured inv' init true
    refine ⟨_, _, ran, ran', SameFront.tickEvents_eq ⟨rfl, rfl, fun o used => ?_⟩ (scanReady_of_inv inv' init) rfl rfl⟩
    obtain ⟨shown, copied⟩ := bytes o used
    refine (bytes' o used).1.trans (Eq.trans ?_ shown.symm)
    simp only [succeed_front, exchangeRoles_front, Bool.not_not]
    exact copied
  case restores =>
    refine ⟨_, execSwap_exchange init, (execSwap_exchange (s := succeed (exchangeRoles s)) init).trans ?_⟩
    simp only [exchangeRoles, succeed, Bool.not_not]
    rfl

end Sys2Proof.Machine
end

/-! ## Proofs of the family 'other': events, runs of steps and brightness

What a tick emits; runs of the block's own steps and of its clocks, by induction on their number; then the duty of a brightness
and the lit steps of a PWM period. -/

section
namespace Sys2Proof.Machine

open Sys2Proof.Statements

/-! ### What a tick emits -/

theorem rowEvents_shift {s : State} {r : Nat} {e : LineEvent} (h : e ∈ rowEvents s r) :
    (∃ d, e = .data d) ∨ (∃ d q, e = .data2 d q) ∨ ∃ v, e = .clk v := by
  obtain ⟨x, -, hx⟩ := List.mem_flatMap.1 h
  obtain rfl | hclk := List.mem_cons.1 hx
  · split
    · exact .inr (.inl ⟨_, _, rfl⟩)
    · exact .inl ⟨_, rfl⟩
  · obtain rfl | rfl : e = .clk true ∨ e = .clk false := by simpa using hclk
    · exact .inr (.inr ⟨_, rfl⟩)
    · exact .inr (.inr ⟨_, rfl⟩)

theorem latchEvents_latch {p : Params} {e : LineEvent} (h : e ∈ latchEvents p) : ∃ v, e = .lat v := by
  obtain ⟨pulse, hpulse, he⟩ := List.mem_flatten.1 h
  rw [List.eq_of_mem_replicate hpulse] at he
  obtain rfl | rfl : e = .lat true ∨ e = .lat false := by simpa using he
  · exact ⟨_, rfl⟩
  · exact ⟨_, rfl⟩

theorem addressAndLatch_latch_or_address {r : BitVec 7} {s : State} {e : LineEvent} (h : e ∈ addressAndLatch r s) :
    (∃ v, e = .lat v) ∨ ∃ a n, e = .addr a n := by
  have parts : e = addressEvent r s ∨ e ∈ latchEvents s.cfg := by
    unfold addressAndLatch at h
    split at h
    · exact List.mem_cons.1 h
    · simpa [or_comm] using h
  obtain rfl | latch := parts
  · exact .inr ⟨_, _, rfl⟩
  · exact .inl (latchEvents_latch latch)

/-- Settles O48: the events of `step_tick_configured`, counted. -/
theorem tickEventCountAndOrder : Obligations.TickEventCountAndOrder := by
  unfold Obligations.TickEventCountAndOrder
  intro s rest inv init pend offered
  have ready := scanReady_of_inv inv init
  have columns : (rowEvents s s.row.toNat).length = 24 * (s.active.width.toNat * s.active.chain.toNat / 8) := by
    rw [rowEvents_length, ready.checked.eightBytes, ← Nat.mul_assoc]
    rfl
  refine ⟨_, rowEvents s s.row.toNat, addressAndLatch s.row s,
    step_tick_configured ready pend (inv.rule.tie_of_pend pend) offered, ?trace, ?count, columns,
    fun e he => rowEvents_shift he, fun e he => addressAndLatch_latch_or_address he, rfl⟩
  case trace => simp [servedTick, tickEvents]
  case count =>
    simp only [servedTick, tickEvents, List.length_append, List.length_singleton, columns, addressAndLatch_length]
    omega

/-! ### What a run of the block's own steps keeps -/

/-- Two states have the same for all that the lines show, but for the PWM counter, and the same timer settings. -/
structure SameOutputs (s t : State) : Prop where
  banks : SameBanks s t
  tie : t.tie = s.tie
  row : t.row = s.row
  duty : t.duty = s.duty
  lines : t.lines = s.lines
  trace : t.trace = s.trace
  tickPeriod : t.tickPeriod = s.tickPeriod

theorem SameOutputs.trans {s t u : State} (h : SameOutputs s t) (h' : SameOutputs t u) : SameOutputs s u :=
  ⟨h.banks.trans h'.banks, h'.tie.trans h.tie, h'.row.trans h.row, h'.duty.trans h.duty, h'.lines.trans h.lines,
    h'.trace.trans h.trace, h'.tickPeriod.trans h.tickPeriod⟩

theorem sameOutputs_agenda (s : State) (agenda : List Input) : SameOutputs s { s with agenda := agenda } :=
  ⟨sameBanks_agenda s agenda, rfl, rfl, rfl, rfl, rfl, rfl⟩

theorem sameOutputs_blockClock (s : State) : SameOutputs s (blockClock s) where
  banks := sameBanks_blockClock s
  tie := blockClock_tie s
  row := blockClock_row s
  duty := blockClock_duty s
  lines := blockClock_lines s
  trace := blockClock_trace s
  tickPeriod := blockClock_tickPeriod s

/-- With ticks disabled and none pending, the block's own inputs show nothing and ask for no tick (R154, R156). -/
theorem runInput_disabled {s : State} {i : Input} (own : ofTheBlock i) (tie : s.tie = false) (pend : s.pend = false) :
    ∃ t, runInput i s = .next t ∧ t.agenda = s.agenda ∧ SameOutputs s t ∧ t.pend = false := by
  have unchanged := sameOutputs_agenda s s.agenda
  obtain rfl | rfl | rfl := own
  · have lost : timerExpire s = s := if_neg (ne_true_of_eq_false tie)
    exact ⟨s, congrArg Host.Outcome.next lost, rfl, unchanged, pend⟩
  · exact ⟨s, serveTick_idle (.inr tie), rfl, unchanged, pend⟩
  · refine ⟨_, rfl, blockClock_agenda s, sameOutputs_blockClock s, ?_⟩
    rw [blockClock, pwmClock_pend, timerClock_disabled tie, pend]

theorem runSteps_disabled {inputs : List Input} (own : ∀ i ∈ inputs, ofTheBlock i) {s : State} (tie : s.tie = false)
    (pend : s.pend = false) (offered : s.agenda = inputs) :
    ∃ t, runSteps inputs.length s = .next t ∧ SameOutputs s t ∧ t.pend = false := by
  induction inputs generalizing s with
  | nil => exact ⟨s, rfl, sameOutputs_agenda s s.agenda, pend⟩
  | cons i rest ih =>
    obtain ⟨own_i, own_rest⟩ := List.forall_mem_cons.1 own
    obtain ⟨t, ran_i, left, same, pend'⟩ := runInput_disabled (s := { s with agenda := rest }) own_i tie pend
    obtain ⟨u, ran_rest, same', pend''⟩ := ih own_rest (same.tie.trans tie) pend' left
    refine ⟨u, ?_, ((sameOutputs_agenda s rest).trans same).trans same', pend''⟩
    simp only [List.length_cons, runSteps, step_cons offered, ran_i]
    exact ran_rest

/-- Settles O40: STOP leaves `TIE` and `PEND` 0, and `runSteps_disabled` does the rest. -/
theorem stopPreventsLaterTicks : Obligations.StopPreventsLaterTicks := by
  unfold Obligations.StopPreventsLaterTicks
  intro s later own
  obtain ⟨u, ran, same, pend⟩ := runSteps_disabled own
    (s := { s with tie := false, pend := false, err := 0#4, agenda := later }) rfl rfl rfl
  exact ⟨_, u, rfl, ran, same.trace, same.row, same.lines, same.duty, same.tie, pend, same.banks.mem⟩

/-! ### Block clocks -/

/-- A clock before the last of the prescaler's count (R36). -/
theorem blockClock_wait {s : State} (h : s.pwmPhase + 1 < s.cfg.pwmPrescale) :
    (blockClock s).pwmPhase = s.pwmPhase + 1 ∧ (blockClock s).pwmCnt = s.pwmCnt := by
  rw [blockClock, pwmClock_wait (by simpa using h)]
  exact ⟨congrArg (· + 1) (timerClock_pwmPhase s), timerClock_pwmCnt s⟩

/-- The last clock of the prescaler's count (R36). -/
theorem blockClock_advance {s : State} (h : s.cfg.pwmPrescale ≤ s.pwmPhase + 1) :
    (blockClock s).pwmPhase = 0 ∧ (blockClock s).pwmCnt = s.pwmCnt + 1 := by
  rw [blockClock, pwmClock_advance (by simpa using h)]
  exact ⟨rfl, congrArg (· + 1) (timerClock_pwmCnt s)⟩

/-- The clocks that are left of the prescaler's count, by induction on them: the last one advances the counter. -/
theorem runSteps_prescale {k : Nat} {s : State} {rest : List Input} (left : s.pwmPhase + (k + 1) = s.cfg.pwmPrescale)
    (offered : s.agenda = List.replicate (k + 1) Input.clock ++ rest) :
    ∃ t, runSteps (k + 1) s = .next t ∧ t.agenda = rest ∧ t.pwmPhase = 0 ∧ t.pwmCnt = s.pwmCnt + 1#8 := by
  induction k generalizing s with
  | zero =>
    obtain ⟨phase, count⟩ := blockClock_advance (s := { s with agenda := rest }) left.ge
    refine ⟨_, ?_, blockClock_agenda _, phase, count⟩
    simp only [runSteps, step_cons (rest := rest) offered, runInput]
  | succ k ih =>
    have clocked := step_cons (rest := List.replicate (k + 1) Input.clock ++ rest) offered
    obtain ⟨phase, count⟩ := blockClock_wait (s := { s with agenda := List.replicate (k + 1) Input.clock ++ rest })
      (show s.pwmPhase + 1 < s.cfg.pwmPrescale by omega)
    obtain ⟨t, ran, done, phase', count'⟩ := ih
      (s := blockClock { s with agenda := List.replicate (k + 1) Input.clock ++ rest })
      (by rw [phase, blockClock_cfg]; simp only; omega) (blockClock_agenda _)
    refine ⟨t, ?_, done, phase', count'.trans (congrArg (· + 1#8) count)⟩
    rw [runSteps, clocked]
    exact ran

/-- Settles O44: from phase 0 the whole count is left. -/
theorem pwmCounterAdvancesEveryPrescale : Obligations.PwmCounterAdvancesEveryPrescale := by
  unfold Obligations.PwmCounterAdvancesEveryPrescale
  intro s rest valid phase offered
  obtain ⟨k, hk⟩ : ∃ k, s.cfg.pwmPrescale = k + 1 := Nat.exists_eq_add_one.2 valid.pwmPrescale
  rw [hk] at offered ⊢
  exact runSteps_prescale (by omega) offered

/-- A clock of a scanning block with no tick pending, before the last of the period and at it (R157). -/
theorem blockClock_counts {s : State} (tie : s.tie = true) (before : s.timerCnt.toNat + 1 < s.tickPeriod.toNat) :
    (blockClock s).timerCnt.toNat = s.timerCnt.toNat + 1 ∧ (blockClock s).pend = s.pend := by
  rw [blockClock, pwmClock_timerCnt, pwmClock_pend, timerClock_count tie before]
  exact ⟨timerCnt_succ before, rfl⟩

theorem blockClock_expires {s : State} (tie : s.tie = true) (last : s.tickPeriod.toNat ≤ s.timerCnt.toNat + 1) :
    (blockClock s).pend = true := by
  rw [blockClock, pwmClock_pend, timerClock_reload tie last]

theorem step_alone_clock {s : State} (alone : s.agenda = []) (pend : s.pend = false) : step s = .next (blockClock s) := by
  rw [step_nil alone, runAlone, pend]
  rfl

/-- The clocks that are left of a tick period, by induction on them: the last one requests a tick (R157). -/
theorem runSteps_period {k : Nat} {s : State} (tie : s.tie = true) (pend : s.pend = false) (alone : s.agenda = [])
    (left : s.timerCnt.toNat + (k + 1) = s.tickPeriod.toNat) :
    ∃ t, runSteps (k + 1) s = .next t ∧ t.agenda = [] ∧ t.pend = true ∧ SameOutputs s t := by
  induction k generalizing s with
  | zero =>
    refine ⟨blockClock s, ?_, (blockClock_agenda s).trans alone, blockClock_expires tie left.ge, sameOutputs_blockClock s⟩
    simp only [runSteps, step_alone_clock alone pend]
  | succ k ih =>
    have same := sameOutputs_blockClock s
    obtain ⟨count, kept⟩ := blockClock_counts tie (by omega)
    obtain ⟨t, ran, alone', requested, same'⟩ := ih (same.tie.trans tie) (kept.trans pend)
      ((blockClock_agenda s).trans alone) (by rw [count, same.tickPeriod]; omega)
    refine ⟨t, ?_, alone', requested, same.trans same'⟩
    rw [runSteps, step_alone_clock alone pend]
    exact ran

/-- Settles O45: the clocks left of the period (`runSteps_period`), then the tick of a block alone. -/
theorem tickComesWithinOnePeriod : Obligations.TickComesWithinOnePeriod := by
  unfold Obligations.TickComesWithinOnePeriod
  intro s inv init tie pend alone
  have below := inv.timer tie
  obtain ⟨k, left⟩ : ∃ k, s.timerCnt.toNat + (k + 1) = s.tickPeriod.toNat :=
    ⟨s.tickPeriod.toNat - s.timerCnt.toNat - 1, by omega⟩
  obtain ⟨t, ran, alone', requested, same⟩ := runSteps_period tie pend alone left
  have ready := scanReady_of_inv inv init
  have ready' : ScanReady t := ready.of_sameBanks same.banks (same.row ▸ ready.row)
  have served : step t = .next (servedTick t []) :=
    ((blockAloneServesPendingTickFirst t alone').1 requested (same.tie.trans tie)).trans
      (step_tick_configured (s := { t with agenda := [.tick] })
        (ready'.of_sameBanks (sameBanks_agenda t _) ready'.row) requested (same.tie.trans tie) rfl)
  refine ⟨k + 1, t, _, by omega, ran, requested, same.row, same.trace, served, rfl, ?_, ?_⟩
  · change (rowAfterTicks t 1).toNat = _
    rw [rowAfterTicks_toNat ready', same.row, same.banks.active]
  · change t.trace ++ tickEvents t = _
    rw [same.trace, tickEvents_congr same.banks same.row same.duty]

/-! ### Brightness -/

/-- R181 (a) for every pair of brightness values. -/
theorem gamma_antitone {p : Params} (h : p.Valid) {v w : BitVec 8} (le : v ≤ w) : p.gamma w ≤ p.gamma v := by
  by_cases same : v = w
  · rw [same]
    exact BitVec.le_refl _
  · exact h.gammaMono v w (BitVec.lt_of_le_ne le same)

/-- A longer off-time lights fewer steps (R187). -/
theorem litSteps_antitone {d e : BitVec 8} (le : d ≤ e) : litSteps e ≤ litSteps d :=
  Nat.sub_le_sub_left (BitVec.le_def.1 le) _

/-- Settles O37: the accepted table is non-increasing, `DUTY_OFF` at 0 and least at 255 (R181). -/
theorem brighterIsNeverDarker : Obligations.BrighterIsNeverDarker := by
  unfold Obligations.BrighterIsNeverDarker
  intro s v w valid le
  have darker := gamma_antitone valid le
  have off : litSteps (s.cfg.gamma 0#8) = 0 := by rw [valid.gammaZero]; rfl
  exact ⟨_, _, _, _, exec_setbright s v, exec_setbright s w, exec_setbright s 0#8, exec_setbright s 255#8, darker,
    litSteps_antitone darker, valid.gammaZero, off, gamma_last_min valid v,
    fun driven => panelLit_dutyOff driven valid.gammaZero⟩

/-- How many numbers below n are above d. -/
theorem countP_range_gt (d n : Nat) : (List.range n).countP (fun c => decide (d < c)) = n - (d + 1) := by
  induction n with
  | zero => simp
  | succ n ih =>
    rw [List.range_succ, List.countP_append, ih]
    by_cases h : d < n <;> simp [h] <;> omega

/-- Settles O54: the lit steps are the counter values above `DUTY` (`oeN_driven`). -/
theorem litStepsOfAPwmPeriod : Obligations.LitStepsOfAPwmPeriod := by
  unfold Obligations.LitStepsOfAPwmPeriod
  intro s driven init
  have level (c : BitVec 8) : oeN { s with pwmCnt := c } = if s.duty < c then .low else .high := by
    rw [oeN_driven (s := { s with pwmCnt := c }) driven]
    simp only [init, true_and]
  refine ⟨?_, ?_, fun off c => ?_⟩
  · have lit : ∀ c ∈ List.range 256,
        (oeN { s with pwmCnt := BitVec.ofNat 8 c } == .low) = true ↔ decide (s.duty.toNat < c) = true := by
      intro c hc
      have above : s.duty < BitVec.ofNat 8 c ↔ s.duty.toNat < c := by
        rw [BitVec.lt_def, BitVec.toNat_ofNat, Nat.mod_eq_of_lt (List.mem_range.1 hc)]
      rw [level, decide_eq_true_iff, ← above]
      split
      · rename_i lit
        exact iff_of_true rfl lit
      · rename_i dark
        exact iff_of_false (by decide) dark
    rw [List.countP_congr lit, countP_range_gt]
    omega
  · rw [panelLit, if_pos driven, if_pos init]
    rfl
  · rw [level, off, if_neg]
    exact BitVec.not_lt.2 (BitVec.le_def.2 (Nat.le_of_lt_succ c.isLt))

end Sys2Proof.Machine
end
